-- ==== Sys2Proof/Word.lean ====
section
/-! DEFINITION. The two word types of the hardware: the 8-bit data byte and the 16-bit address (00_scope.md R6, 20_memory.md R60). -/

namespace Sys2Proof

/-- One byte: the only unit the bus moves (R60), and the width of `A`, `X`, `Y`, `S`, `P` and every latch (R6, R30, R35). -/
abbrev Byte := BitVec 8

/-- A 16-bit address; also the width of `PC` (R6, R31). Its arithmetic wraps, which is `u16` of R7. -/
abbrev Addr := BitVec 16

end Sys2Proof
end

