-- ==== Sys2Proof/Config.lean ====
section
/-! DEFINITION. The parameters of the model (00_scope.md R6), the vocabulary of the opcode table's tuple
(30_encoding.md R91, R94), and the values the spec leaves free. -/

namespace Sys2Proof

/-- `DECIMAL_MODE` (R6, D20): whether `P.D` selects the NMOS decimal arithmetic of R261 and R262. The spec leaves it OPEN. -/
inductive DecimalMode where
  | binaryOnly
  | nmos
  deriving DecidableEq, Repr

/-- The parameters of R6 that are numbers or modes. They are an argument of the model: every state carries its own copy,
which no step writes, so a statement about every state is a statement about every choice of them. (`NET` is an argument
of `Setup`, R120; the registers' power-on values are `PowerOnValues`.) -/
structure Params where
  /-- `BUS_SIZE`: the bytes of the backing store, at most 65536 (R62, D12). -/
  busSize : Nat
  /-- `SETTLE_ROUND_CAP` (R126, D3). -/
  settleRoundCap : Nat
  /-- `DECIMAL_MODE` (D20). -/
  decimalMode : DecimalMode
  /-- `BOOT_ALIGN`, used only by the lockstep contract (R470, D28). -/
  bootAlign : Nat
  deriving DecidableEq, Repr

/-- "at most 65536" (R6, D12). -/
def Params.wf (p : Params) : Bool := decide (p.busSize ≤ 65536)

/-- The defaults of R6. `DECIMAL_MODE` has no default in the spec: `binary_only` is a DESIGN CHOICE (log entry 3), the mode
the spec's own test vectors take where they name none (95_test_vectors.md). -/
def Params.spec : Params :=
  { busSize := 65536, settleRoundCap := 100, decimalMode := .binaryOnly, bootAlign := 8 }

/-- The power-on parameters `A0 X0 Y0 S0 P0 PC0` of R6 and R39 ("any value", D16), and the latches' power-on values
(R35, U16: "any value"). -/
structure PowerOnValues where
  a : Byte
  x : Byte
  y : Byte
  s : Byte
  p : Byte
  pc : Addr
  adl : Byte
  adh : Byte
  eal : Byte
  eah : Byte
  dl : Byte
  deriving DecidableEq, Repr

/-- What `State.reset` takes for the power-on parameters. DESIGN CHOICE: the spec gives none (log entries 1 and 2). -/
def PowerOnValues.zero : PowerOnValues :=
  { a := 0, x := 0, y := 0, s := 0, p := 0, pc := 0, adl := 0, adh := 0, eal := 0, eah := 0, dl := 0 }

/-- The thirteen formats of R91. -/
inductive Format where
  | imp
  | acc
  | imm
  | zp
  | zpx
  | zpy
  | abs
  | abx
  | aby
  | ind
  | izx
  | izy
  | rel
  deriving DecidableEq, Repr

/-- The access classes of R94. -/
inductive AccessClass where
  | read
  | write
  | rmw
  | imp
  | acc
  | branch
  | jmp
  | jmpind
  | jsr
  | rts
  | rti
  | brk
  | push
  | pull
  | unk
  deriving DecidableEq, Repr

/-- The penalty marks of R94: none, `+p` and `+t+p`. -/
inductive Penalty where
  | none
  | page
  | takenPage
  deriving DecidableEq, Repr

/-- The names of spec/opcode_table.json, in lower case. -/
inductive Mnemonic where
  | adc
  | alr
  | anc
  | and
  | arr
  | asl
  | axs
  | bcc
  | bcs
  | beq
  | bit
  | bmi
  | bne
  | bpl
  | brk
  | bvc
  | bvs
  | clc
  | cld
  | cli
  | clv
  | cmp
  | cpx
  | cpy
  | dcp
  | dec
  | dex
  | dey
  | eor
  | inc
  | inx
  | iny
  | isc
  | jmp
  | jsr
  | las
  | lax
  | lda
  | ldx
  | ldy
  | lsr
  | nop
  | ora
  | pha
  | php
  | pla
  | plp
  | rla
  | rol
  | ror
  | rra
  | rti
  | rts
  | sax
  | sbc
  | sec
  | sed
  | sei
  | slo
  | sre
  | sta
  | stx
  | sty
  | tax
  | tay
  | tsx
  | txa
  | txs
  | tya
  | unk
  deriving DecidableEq, Repr

/-- One row of the opcode table: the tuple of R94 and the opcode byte that selects it. -/
structure OpcodeRow where
  opcode : Byte
  mnemonic : Mnemonic
  format : Format
  bytes : Nat
  cycles : Nat
  penalty : Penalty
  cls : AccessClass
  deriving DecidableEq, Repr

/-- The free values of U7: `ARR` under `DECIMAL_MODE = nmos` with `P.D = 1` leaves `A` and four flags unspecified (R361).
The `k`-th value drawn is `Config.freeByte k`; it has no body, so nothing can be proved of it (log entry 11). -/
opaque Config.freeByte : Nat → Byte

/-- `ComputeNodeHash` (R146, U15): "uninterpreted". Its argument is every node's `state`, `pullUp`, `pullDown`, `floating`
in index order (log entry 12). -/
opaque Config.nodeHash : List (Bool × Bool × Bool × Bool) → Nat

/-- `ComputeTransistorHash` (R146, U15): "uninterpreted". Its argument is every transistor's `on` in table order. -/
opaque Config.transistorHash : List Bool → Nat

end Sys2Proof
end

