-- ==== Sys2Proof/Machine/Bits.lean ====
section
/-! DEFINITION. Byte and address helpers (00_scope.md R7, R8) and the fixed addresses (R6, 20_memory.md R68). -/

namespace Sys2Proof.Machine

/-- `hi:lo`, concatenation with `hi` in bits 15..8 (R7). -/
def cat (hi lo : Byte) : Addr := hi ++ lo

/-- `v[15:8]`; of `PC`, `PCH` (R7, R8). -/
def hiByte (v : Addr) : Byte := v.extractLsb' 8 8

/-- `v[7:0]`; of `PC`, `PCL` (R7, R8). -/
def loByte (v : Addr) : Byte := v.extractLsb' 0 8

/-- `sext_16(v)` (R7): `v` if `v[7] = 0`, else `0xFF00 + v`. -/
def sext16 (v : Byte) : Addr := v.signExtend 16

/-- `NMI_VECTOR` (R6, R68). -/
def nmiVector : Addr := 0xFFFA

/-- `RESET_VECTOR` (R6, R68). -/
def resetVector : Addr := 0xFFFC

/-- `IRQ_VECTOR`, also that of `BRK` (R6, R68, R405). -/
def irqVector : Addr := 0xFFFE

/-- `STACK_PAGE` (R6, R68). -/
def stackPage : Byte := 0x01

/-- The address a zero-page byte names: `0x00:b` (R68). -/
def zeroPageAddr (b : Byte) : Addr := cat 0x00 b

/-- The stack address `STACK_PAGE:S` (R30, R68). -/
def stackAddr (s : Byte) : Addr := cat stackPage s

end Sys2Proof.Machine
end

