-- ==== Sys2Proof/Machine/Flags.lean ====
section
/-! DEFINITION. The status byte `P` and every flag computation (10_state.md R32, R33; 43_arithmetic_logic.md): functions on
bytes only. -/

namespace Sys2Proof.Machine

/-- The eight flags of R32. -/
inductive Flag where
  | c
  | z
  | i
  | d
  | b
  | u
  | v
  | n
  deriving DecidableEq, Repr

/-- Bit positions (R32). -/
def Flag.pos : Flag → Nat
  | .c => 0
  | .z => 1
  | .i => 2
  | .d => 3
  | .b => 4
  | .u => 5
  | .v => 6
  | .n => 7

/-- The flag's mask (R32). -/
def Flag.mask (f : Flag) : Byte := (1 : Byte) <<< f.pos

/-- `P.f` (R8). -/
def getFlag (p : Byte) (f : Flag) : Bool := p.getLsbD f.pos

/-- `P.f <- b`, the other seven bits kept (R8). -/
def setFlag (p : Byte) (f : Flag) (b : Bool) : Byte :=
  (p &&& ~~~ f.mask) ||| (if b then f.mask else 0)

/-- `setNZ(v)`: `P.Z <- (v = 0); P.N <- v[7]` (R32). -/
def setNZ (p : Byte) (v : Byte) : Byte := setFlag (setFlag p .z (v == 0)) .n v.msb

/-- The value a `Bool` stands for where a bit is needed (R7). -/
def bit (b : Bool) : Nat := if b then 1 else 0

/-- `s8(v)` (R260). -/
def s8 (v : Byte) : Int := v.toInt

/-- What an addition leaves: the new `A` and the new `P`. -/
structure AddOut where
  a : Byte
  p : Byte
  deriving DecidableEq, Repr

/-- `AddBinary(a, m, c)` (R260). -/
def addBinary (p a m : Byte) (c : Bool) : AddOut :=
  let r := a.toNat + m.toNat + bit c
  let r8 : Byte := BitVec.ofNat 8 r
  let p := setFlag p .c (decide (r > 0xFF))
  let p := setFlag p .v ((a ^^^ r8) &&& (m ^^^ r8) &&& 0x80 != 0)
  { a := r8, p := setNZ p r8 }

/-- `AddDecimal(a, m, c)` (R261). -/
def addDecimal (p a m : Byte) (c : Bool) : AddOut :=
  let al0 := a.toNat % 16 + m.toNat % 16 + bit c
  let al := if al0 ≥ 0x0A then (al0 + 0x06) % 16 + 0x10 else al0
  let ah : Byte := a &&& 0xF0
  let mh : Byte := m &&& 0xF0
  let r := ah.toNat + mh.toNat + al
  let p := setFlag p .z (decide ((a.toNat + m.toNat + bit c) % 256 = 0))
  let p := setFlag p .n (r.testBit 7)
  let sv := s8 ah + s8 mh + (al : Int)
  let p := setFlag p .v (decide (sv < -128 ∨ sv > 127))
  let r := if r ≥ 0xA0 then r + 0x60 else r
  let p := setFlag p .c (decide (r ≥ 0x100))
  { a := BitVec.ofNat 8 r, p := p }

/-- `SubDecimal(a, m, c)` (R262). `x & 0x0F` of a negative `x` is taken on the two's-complement value, that is `x mod 16`. -/
def subDecimal (p a m : Byte) (c : Bool) : AddOut :=
  let m' : Byte := m ^^^ 0xFF
  let b := a.toNat + m'.toNat + bit c
  let b8 : Byte := BitVec.ofNat 8 b
  let al0 : Int := (a.toNat % 16 : Nat) - (m.toNat % 16 : Nat) + (bit c : Nat) - 1
  let al : Int := if al0 < 0 then (al0 - 0x06) % 16 - 0x10 else al0
  let r : Int := ((a &&& 0xF0).toNat : Int) - ((m &&& 0xF0).toNat : Int) + al
  let r := if r < 0 then r - 0x60 else r
  let p := setFlag p .c (decide (b > 0xFF))
  let p := setFlag p .v ((a ^^^ b8) &&& (m' ^^^ b8) &&& 0x80 != 0)
  { a := BitVec.ofInt 8 r, p := setNZ p b8 }

/-- Decimal arithmetic applies when `DECIMAL_MODE = nmos` and `P.D = 1` (R263, R264). -/
def decimalOn (mode : DecimalMode) (p : Byte) : Bool :=
  match mode with
  | .binaryOnly => false
  | .nmos => getFlag p .d

/-- `ADC.exec(m)` (R263). -/
def adcOut (mode : DecimalMode) (p a m : Byte) : AddOut :=
  if decimalOn mode p then addDecimal p a m (getFlag p .c) else addBinary p a m (getFlag p .c)

/-- `SBC.exec(m)` (R264). -/
def sbcOut (mode : DecimalMode) (p a m : Byte) : AddOut :=
  if decimalOn mode p then subDecimal p a m (getFlag p .c) else addBinary p a (m ^^^ 0xFF) (getFlag p .c)

/-- `Compare(r, m)`: `P.C <- (r >= m); setNZ(u8(r - m))` (R269). -/
def compareP (p r m : Byte) : Byte := setNZ (setFlag p .c (decide (m.toNat ≤ r.toNat))) (r - m)

/-- The flags of `BIT` (R268). -/
def bitTest (p a m : Byte) : Byte :=
  setFlag (setFlag (setFlag p .z (a &&& m == 0)) .n (m.getLsbD 7)) .v (m.getLsbD 6)

/-- What a shift leaves: the shifted byte and the carry out. -/
structure ShiftOut where
  w : Byte
  c : Bool
  deriving DecidableEq, Repr

/-- `ASL`'s `f` without its `setNZ` (R278). -/
def aslF (v : Byte) : ShiftOut := { w := v <<< 1, c := v.getLsbD 7 }

/-- `LSR`'s `f` without its `setNZ` (R279). -/
def lsrF (v : Byte) : ShiftOut := { w := v >>> 1, c := v.getLsbD 0 }

/-- `ROL`'s `f` without its `setNZ`, from the carry in (R280). -/
def rolF (v : Byte) (c : Bool) : ShiftOut :=
  { w := (v <<< 1) ||| (if c then 0x01 else 0), c := v.getLsbD 7 }

/-- `ROR`'s `f` without its `setNZ`, from the carry in (R281). -/
def rorF (v : Byte) (c : Bool) : ShiftOut :=
  { w := (v >>> 1) ||| (if c then 0x80 else 0), c := v.getLsbD 0 }

/-- The status byte `PHP` and `BRK` push: `P | 0x30` (R33). -/
def pushedBreak (p : Byte) : Byte := p ||| 0x30

/-- The status byte IRQ and NMI push: `(P | 0x20) & 0xEF` (R33, R414). -/
def pushedIrq (p : Byte) : Byte := (p ||| 0x20) &&& 0xEF

/-- `PULL(P)`: `P <- (P & 0x30) | (m & 0xCF)` (R33, R178). -/
def pulledStatus (p m : Byte) : Byte := (p &&& 0x30) ||| (m &&& 0xCF)

/-- `cond()` of the eight branches (R300 to R307) is one of these tests. -/
def flagIs (p : Byte) (f : Flag) (b : Bool) : Bool := getFlag p f == b

end Sys2Proof.Machine
end

