-- ==== Sys2Proof/Machine/MicroOp.lean ====
section
/-! DEFINITION. The closed set of micro-operation kinds (41_sequencer.md R175), the names of the effect functions bound
into them (R174), and the sequences of R180 to R209, R414 and R415. What a kind does is Machine/Ops.lean, what an effect
function computes is Machine/Effects.lean. -/

namespace Sys2Proof.Machine

/-- `L` of R175: the latch pair `AD = ADH:ADL` or `EA = EAH:EAL`. -/
inductive LatchPair where
  | ad
  | ea
  deriving DecidableEq, Repr

/-- `r` of R175: the index register. -/
inductive IndexReg where
  | x
  | y
  deriving DecidableEq, Repr

/-- `exec()` of the classes `imp`, `acc` and `unk` (R174). -/
inductive ImpFn where
  | clc
  | sec
  | cli
  | sei
  | dey
  | txa
  | tya
  | txs
  | tay
  | tax
  | clv
  | tsx
  | iny
  | dex
  | cld
  | inx
  | nop
  | sed
  | aslA
  | lsrA
  | rolA
  | rorA
  | unk
  deriving DecidableEq, Repr

/-- `exec(m)` of the class `read` (R174). -/
inductive ReadFn where
  | adc
  | alr
  | anc
  | and
  | arr
  | axs
  | bit
  | cmp
  | cpx
  | cpy
  | eor
  | las
  | lax
  | lda
  | ldx
  | ldy
  | nop
  | ora
  | sbc
  deriving DecidableEq, Repr

/-- `val()` of the class `write` (R174). -/
inductive StoreFn where
  | sta
  | stx
  | sty
  | sax
  deriving DecidableEq, Repr

/-- `exec(m)` of the class `rmw`, which returns the byte to write back (R174). -/
inductive RmwFn where
  | asl
  | dcp
  | dec
  | inc
  | isc
  | lsr
  | rla
  | rol
  | ror
  | rra
  | slo
  | sre
  deriving DecidableEq, Repr

/-- `cond()` of the class `branch` (R174). -/
inductive Cond where
  | bpl
  | bmi
  | bvc
  | bvs
  | bcc
  | bcs
  | bne
  | beq
  deriving DecidableEq, Repr

/-- What `PUSH(e)` pushes: the expressions of R178. -/
inductive PushVal where
  /-- `PCH` -/
  | pch
  /-- `PCL` -/
  | pcl
  /-- `A` -/
  | a
  /-- `P | 0x30`, of `PHP` and `BRK` (R33) -/
  | statusBreak
  /-- `(P | 0x20) & 0xEF`, of IRQ and NMI (R33) -/
  | statusIrq
  deriving DecidableEq, Repr

/-- What `PULL(load)` and `PULL_INC(load)` load: the four of R178. -/
inductive LoadFn where
  | pcl
  | pch
  | p
  | a
  deriving DecidableEq, Repr

/-- The 32 kinds of R175, in its order. -/
inductive MicroOp where
  /-- `OPC`: its bus access is the dispatcher's opcode read -/
  | opc
  | intT0
  | dummyPc (e : Option ImpFn)
  | dummyPcInc
  | imm (e : ReadFn)
  | fetchAdl
  | fetchZp
  | fetchAdh
  | fetchAdhJmp
  | brOffset (c : Cond)
  | brTake
  | brFix
  | zpIndex (r : IndexReg)
  | read (l : LatchPair) (e : Option ReadFn)
  | readIdx (l : LatchPair) (r : IndexReg) (e : ReadFn)
  | fixRead (l : LatchPair) (e : ReadFn)
  | dummyIdx (l : LatchPair) (r : IndexReg)
  | write (l : LatchPair) (v : StoreFn)
  | rmwDummy (l : LatchPair)
  | rmwFinal (l : LatchPair) (e : RmwFn)
  | fetchEal
  | fetchEah
  | fetchEahJmp
  | push (v : PushVal)
  | resetPush
  | stackDummy
  | pullDummy
  | pull (l : LoadFn)
  | pullInc (l : LoadFn)
  | vecLo (v : Addr)
  | vecHi (v : Addr)
  /-- `SET_PC_AD`: the one free operation (R172) -/
  | setPcAd
  deriving DecidableEq, Repr

/-- R172: the free set has one member, `SET_PC_AD`. -/
def MicroOp.isFree : MicroOp → Bool
  | .setPcAd => true
  | _ => false

/-! The sequences. Each is the queue `Decode` returns for one (format, class) pair. -/

/-- R180: `IMP`, `ACC`, `UNK`. -/
def seqImp (e : ImpFn) : List MicroOp := [.opc, .dummyPc (some e)]

/-- R181: `IMM`. -/
def seqImm (e : ReadFn) : List MicroOp := [.opc, .imm e]

/-- R182: zero page, read. -/
def seqZpRead (e : ReadFn) : List MicroOp := [.opc, .fetchZp, .read .ad (some e)]

/-- R183: zero page, write. -/
def seqZpWrite (v : StoreFn) : List MicroOp := [.opc, .fetchZp, .write .ad v]

/-- R184: zero page, rmw. -/
def seqZpRmw (e : RmwFn) : List MicroOp :=
  [.opc, .fetchZp, .read .ad none, .rmwDummy .ad, .rmwFinal .ad e]

/-- R185: zero page indexed, read. -/
def seqZpIdxRead (r : IndexReg) (e : ReadFn) : List MicroOp :=
  [.opc, .fetchZp, .zpIndex r, .read .ad (some e)]

/-- R186: zero page indexed, write. -/
def seqZpIdxWrite (r : IndexReg) (v : StoreFn) : List MicroOp :=
  [.opc, .fetchZp, .zpIndex r, .write .ad v]

/-- R187: zero page indexed, rmw. -/
def seqZpIdxRmw (r : IndexReg) (e : RmwFn) : List MicroOp :=
  [.opc, .fetchZp, .zpIndex r, .read .ad none, .rmwDummy .ad, .rmwFinal .ad e]

/-- R188: absolute, read. -/
def seqAbsRead (e : ReadFn) : List MicroOp := [.opc, .fetchAdl, .fetchAdh, .read .ad (some e)]

/-- R189: absolute, write. -/
def seqAbsWrite (v : StoreFn) : List MicroOp := [.opc, .fetchAdl, .fetchAdh, .write .ad v]

/-- R190: absolute, rmw. -/
def seqAbsRmw (e : RmwFn) : List MicroOp :=
  [.opc, .fetchAdl, .fetchAdh, .read .ad none, .rmwDummy .ad, .rmwFinal .ad e]

/-- R191: `JMP` absolute. -/
def seqJmp : List MicroOp := [.opc, .fetchAdl, .fetchAdhJmp]

/-- R192: absolute indexed, read. -/
def seqAbsIdxRead (r : IndexReg) (e : ReadFn) : List MicroOp :=
  [.opc, .fetchAdl, .fetchAdh, .readIdx .ad r e, .fixRead .ad e]

/-- R193: absolute indexed, write. -/
def seqAbsIdxWrite (r : IndexReg) (v : StoreFn) : List MicroOp :=
  [.opc, .fetchAdl, .fetchAdh, .dummyIdx .ad r, .write .ad v]

/-- R194: absolute indexed, rmw. -/
def seqAbsIdxRmw (r : IndexReg) (e : RmwFn) : List MicroOp :=
  [.opc, .fetchAdl, .fetchAdh, .dummyIdx .ad r, .read .ad none, .rmwDummy .ad, .rmwFinal .ad e]

/-- R195: indirect,X, read. -/
def seqIzxRead (e : ReadFn) : List MicroOp :=
  [.opc, .fetchZp, .zpIndex .x, .fetchEal, .fetchEah, .read .ea (some e)]

/-- R196: indirect,X, write. -/
def seqIzxWrite (v : StoreFn) : List MicroOp :=
  [.opc, .fetchZp, .zpIndex .x, .fetchEal, .fetchEah, .write .ea v]

/-- R197: indirect,X, rmw. -/
def seqIzxRmw (e : RmwFn) : List MicroOp :=
  [.opc, .fetchZp, .zpIndex .x, .fetchEal, .fetchEah, .read .ea none, .rmwDummy .ea, .rmwFinal .ea e]

/-- R198: indirect,Y, read. -/
def seqIzyRead (e : ReadFn) : List MicroOp :=
  [.opc, .fetchZp, .fetchEal, .fetchEah, .readIdx .ea .y e, .fixRead .ea e]

/-- R199: indirect,Y, write. -/
def seqIzyWrite (v : StoreFn) : List MicroOp :=
  [.opc, .fetchZp, .fetchEal, .fetchEah, .dummyIdx .ea .y, .write .ea v]

/-- R200: indirect,Y, rmw. -/
def seqIzyRmw (e : RmwFn) : List MicroOp :=
  [.opc, .fetchZp, .fetchEal, .fetchEah, .dummyIdx .ea .y, .read .ea none, .rmwDummy .ea, .rmwFinal .ea e]

/-- R201: `JMP` indirect. -/
def seqJmpInd : List MicroOp := [.opc, .fetchAdl, .fetchAdh, .fetchEal, .fetchEahJmp]

/-- R202: branch. -/
def seqBranch (c : Cond) : List MicroOp := [.opc, .brOffset c, .brTake, .brFix]

/-- R203: push. -/
def seqPush (v : PushVal) : List MicroOp := [.opc, .dummyPc none, .push v]

/-- R204: pull. -/
def seqPull (l : LoadFn) : List MicroOp := [.opc, .dummyPc none, .pullDummy, .pull l]

/-- R205: `JSR`. -/
def seqJsr : List MicroOp :=
  [.opc, .fetchAdl, .stackDummy, .push .pch, .push .pcl, .fetchAdhJmp]

/-- R206: `RTS`. -/
def seqRts : List MicroOp :=
  [.opc, .dummyPc none, .pullDummy, .pullInc .pcl, .pull .pch, .dummyPcInc]

/-- R207: `RTI`. -/
def seqRti : List MicroOp :=
  [.opc, .dummyPc none, .pullDummy, .pullInc .p, .pullInc .pcl, .pull .pch]

/-- R208: `BRK`. -/
def seqBrk : List MicroOp :=
  [.opc, .dummyPcInc, .push .pch, .push .pcl, .push .statusBreak, .vecLo irqVector, .vecHi irqVector, .setPcAd]

/-- R414: `InterruptSequence(v)` of IRQ and NMI. -/
def interruptSequence (v : Addr) : List MicroOp :=
  [.intT0, .dummyPc none, .push .pch, .push .pcl, .push .statusIrq, .vecLo v, .vecHi v, .setPcAd]

/-- R415: the reset sequence. -/
def resetSequence : List MicroOp :=
  [.intT0, .dummyPc none, .resetPush, .resetPush, .resetPush, .vecLo resetVector, .vecHi resetVector, .setPcAd]

end Sys2Proof.Machine
end

