-- ==== Sys2Proof/Machine/Memory.lean ====
section
/-! DEFINITION. The reference bus's backing store (20_memory.md R60, R61): a list of (address, byte) pairs in one canonical form. -/

namespace Sys2Proof.Machine

/-- The bytes that differ from what an unlisted address reads as. -/
abbrev Memory := List Host.Cell

/-- What a byte that nothing has written reads as. DESIGN CHOICE (log entry 5): the spec gives the image no contents; its
test vectors fill it with 0x00 (95_test_vectors.md). -/
def Memory.unlisted : Byte := 0x00

/-- `read(a) = mem[a]` (R61). -/
def Memory.read : Memory → Nat → Byte
  | [], _ => Memory.unlisted
  | c :: rest, k => if c.1 = k then c.2 else Memory.read rest k

/-- Put a byte at its place in the rising list. -/
def Memory.insert : Memory → Nat → Byte → Memory
  | [], k, v => [(k, v)]
  | c :: rest, k, v =>
    if k < c.1 then (k, v) :: c :: rest
    else if c.1 = k then (k, v) :: rest
    else c :: Memory.insert rest k v

/-- `write(a, v)` sets `mem[a] <- v` (R61). Writing what an unlisted byte reads as removes the entry, so that equal
memories are equal lists. -/
def Memory.write (m : Memory) (k : Nat) (v : Byte) : Memory :=
  if v = Memory.unlisted then m.filter (fun c => c.1 != k) else Memory.insert m k v

/-- The addresses rise strictly. -/
def Memory.rising : Memory → Bool
  | [] => true
  | [_] => true
  | c :: d :: rest => decide (c.1 < d.1) && Memory.rising (d :: rest)

/-- The canonical form: addresses strictly rising, no entry equal to what an unlisted address reads as, every address one
of the 65536 of R60. -/
def Memory.wf (m : Memory) : Bool :=
  Memory.rising m && m.all (fun c => c.2 != Memory.unlisted) && m.all (fun c => decide (c.1 < 65536))

end Sys2Proof.Machine
end

