-- ==== Sys2Proof/Machine/Network.lean ====
section
/-! DEFINITION. SIM's state (10_state.md part A), the circuit description `NET` it is built from (00_scope.md R6), and
`Setup` (40_switch_network.md R120 to R123). -/

namespace Sys2Proof.Machine

/-- A row of the node table: "(index, pullup flag, optional name)" (R120). -/
structure NodeRow where
  index : Nat
  pullUp : Bool
  name : Option String
  deriving DecidableEq, Repr

/-- A row of the transistor table: "(name, gate node id, terminal1 id, terminal2 id)" (R120). -/
structure TransistorRow where
  name : String
  gate : Nat
  terminal1 : Nat
  terminal2 : Nat
  deriving DecidableEq, Repr

/-- The named internal nodes behind the register convenience readers, bit 0 first: supplied with `NET` (R145, N10). -/
structure RegReaders where
  a : List String
  x : List String
  y : List String
  s : List String
  p : List String
  pc : List String
  deriving DecidableEq, Repr

/-- `NET`, the circuit description (R6, U13). -/
structure Net where
  nodeCount : Nat
  nodeTable : List NodeRow
  transistorTable : List TransistorRow
  gnd : Nat
  pwr : Nat
  readers : RegReaders
  deriving DecidableEq, Repr

/-- A node (R21). `gates` and `terminals` list transistors by their position in the transistor array. -/
structure Node where
  state : Bool
  pullUp : Bool
  pullDown : Bool
  floating : Bool
  gates : List Nat
  terminals : List Nat
  name : Option String
  deriving DecidableEq, Repr

/-- A transistor (R24), its rail terminal, if any, in the `t2` slot (R121). -/
structure Transistor where
  name : String
  gate : Nat
  t1 : Nat
  t2 : Nat
  on : Bool
  deriving DecidableEq, Repr

/-- Where SIM stands in the one lifecycle NINU describes (D24): what the preconditions of `Init` and `RunStartProgram`
need. The MODEL's own field (log entry 15). -/
inductive SimPhase where
  /-- built by `Setup`, not stepped yet (R440) -/
  | fresh
  /-- stepped before any `Init` -/
  | stepped
  /-- `Init` has run (R441) -/
  | booted
  deriving DecidableEq, Repr

/-- SIM's whole state: the node array (R20), the transistor array (R24), the rails (R23), the readers' node names (R145),
and its bus (R27, R76). -/
structure SimState where
  nodes : List Node
  transistors : List Transistor
  gnd : Nat
  pwr : Nat
  readers : RegReaders
  phase : SimPhase
  mem : Memory
  deriving DecidableEq, Repr

/-- No two entries of a list are equal. -/
def allDistinct {α : Type} [DecidableEq α] : List α → Bool
  | [] => true
  | a :: rest => !rest.contains a && allDistinct rest

/-- Every id names a node. -/
def Net.validIds (net : Net) (ids : List Nat) : Bool := ids.all (fun i => decide (i < net.nodeCount))

/-- The checks of R123. That a node index stands in at most one row, and that the two rails differ, is DEDUCED from R20
("assigned once") and R23 ("two distinguished nodes") (log entry 14). -/
def Net.wellFormed (net : Net) : Bool :=
  net.validIds [net.gnd, net.pwr] && net.gnd != net.pwr
    && net.validIds (net.nodeTable.map (·.index)) && allDistinct (net.nodeTable.map (·.index))
    && allDistinct (net.nodeTable.filterMap (·.name))
    && net.transistorTable.all (fun t => net.validIds [t.gate, t.terminal1, t.terminal2])
    && allDistinct (net.transistorTable.map (·.name))

/-- The node table's row for an index. -/
def Net.rowOf (net : Net) (i : Nat) : Option NodeRow := net.nodeTable.find? (fun r => r.index == i)

/-- A node with the construction values of R21. A node the table gives no row has no pull-up and no name (DESIGN CHOICE,
log entry 14). -/
def Net.freshNode (net : Net) (i : Nat) : Node :=
  { state := i == net.pwr
    pullUp := match net.rowOf i with
      | some r => r.pullUp
      | none => false
    pullDown := false
    floating := true
    gates := []
    terminals := []
    name := match net.rowOf i with
      | some r => r.name
      | none => none }

/-- R121: a rail terminal goes to the second slot. -/
def Net.normalise (net : Net) (a b : Nat) : Nat × Nat :=
  if a = net.gnd ∨ a = net.pwr then (b, a) else (a, b)

/-- One row of the transistor table (R120, R121, R122, R24): create the transistor and append it to the three lists, in
the order `gates`, `t1`'s `terminals`, `t2`'s `terminals`. -/
def Net.addTransistor (net : Net) (sim : SimState) (r : TransistorRow) : SimState :=
  let t := sim.transistors.length
  let ends := net.normalise r.terminal1 r.terminal2
  { sim with
    transistors := sim.transistors ++
      [{ name := r.name, gate := r.gate, t1 := ends.1, t2 := ends.2, on := r.gate == net.pwr }]
    nodes := ((sim.nodes.modify r.gate (fun n => { n with gates := n.gates ++ [t] })).modify
        ends.1 (fun n => { n with terminals := n.terminals ++ [t] })).modify
        ends.2 (fun n => { n with terminals := n.terminals ++ [t] }) }

/-- The arrays before any transistor (R120). -/
def Net.bare (net : Net) (mem : Memory) : SimState :=
  { nodes := (List.range net.nodeCount).map net.freshNode
    transistors := []
    gnd := net.gnd
    pwr := net.pwr
    readers := net.readers
    phase := .fresh
    mem := mem }

/-- The network of a well-formed description (R120, R440). -/
def Net.build (net : Net) (mem : Memory) : SimState :=
  net.transistorTable.foldl net.addTransistor (net.bare mem)

/-- `Setup(NET)` (R120) on a given bus; `none` is `Fatal(ConfigError)` (R123). -/
def setup (net : Net) (mem : Memory) : Option SimState :=
  if net.wellFormed then some (net.build mem) else none

/-- A pin's row in a node table. -/
def pinRow (i : Nat) (name : String) : NodeRow := { index := i, pullUp := false, name := some name }

/-- The pins `prefix0` to `prefix<n-1>` from a first index on. -/
def busRows (first : Nat) (base : String) (n : Nat) : List NodeRow :=
  (List.range n).map (fun k => pinRow (first + k) (base ++ toString k))

/-- The circuit `State.reset` holds: the rails and the pins R22 names, and no transistor. DESIGN CHOICE (log entry 4):
the spec's `NET` is a parameter with no default (R6, N1). -/
def Net.pinsOnly : Net :=
  { nodeCount := 33
    nodeTable := [pinRow 2 "clk0", pinRow 3 "res", pinRow 4 "rdy", pinRow 5 "so", pinRow 6 "irq", pinRow 7 "nmi",
      pinRow 8 "rw"] ++ busRows 9 "ab" 16 ++ busRows 25 "db" 8
    transistorTable := []
    gnd := 0
    pwr := 1
    readers := { a := [], x := [], y := [], s := [], p := [], pc := [] } }

end Sys2Proof.Machine
end

