-- ==== Sys2Proof/Machine/State.lean ====
section
/-! DEFINITION. The state of the machine as plain data (10_state.md): SEQ, SIM, the parameters and the host's pending
calls; the ways a step can stop; the state after reset. -/

namespace Sys2Proof.Machine

/-- SEQ's state (10_state.md part B). -/
structure SeqState where
  /-- accumulator (R30) -/
  a : Byte
  /-- index register (R30) -/
  x : Byte
  /-- index register (R30) -/
  y : Byte
  /-- stack pointer; the stack address is `STACK_PAGE:S` (R30) -/
  s : Byte
  /-- status flags (R32) -/
  p : Byte
  /-- program counter (R31) -/
  pc : Addr
  /-- address latch low (R35) -/
  adl : Byte
  /-- address latch high (R35) -/
  adh : Byte
  /-- effective-address latch low (R35) -/
  eal : Byte
  /-- effective-address latch high (R35) -/
  eah : Byte
  /-- data latch (R35) -/
  dl : Byte
  /-- the micro-operation queue `Q` (R36) -/
  q : List MicroOp
  /-- host-written input, `true` = asserted (R37) -/
  irqLine : Bool
  /-- host-written input, `true` = asserted (R37) -/
  nmiLine : Bool
  /-- `nmiLine` as the previous `Clock()` saw it (R37) -/
  nmiPrev : Bool
  /-- an NMI edge seen and not yet serviced (R37) -/
  nmiPending : Bool
  /-- SEQ's bus: the reference memory (R61, R76) -/
  mem : Memory
  /-- how many free values have been drawn: the MODEL's own field (log entry 11) -/
  freeCount : Nat
  deriving DecidableEq, Repr

/-- `level` of `WriteBit` (R140). -/
inductive Level where
  | high
  | low
  | undriven
  deriving DecidableEq, Repr

/-- The calls the host can make between two operations (R2, R455, R456): the public surfaces of both engines, the writes
of SEQ's inputs (R37), and edits of the memory images (R444, R456). -/
inductive HostCmd where
  /-- `PowerOn()` of SEQ (R415, R443) -/
  | seqPowerOn
  /-- `Clock()` of SEQ (R171) -/
  | seqClock
  | seqIrqLine (b : Bool)
  | seqNmiLine (b : Bool)
  | seqPoke (a : Addr) (v : Byte)
  /-- `Setup(NET)` (R120): a new SIM on the same bus -/
  | simSetup (net : Net)
  /-- `Init()` of SIM (R441) -/
  | simInit
  /-- `RunStartProgram()` (R442) -/
  | simRunStartProgram
  /-- `HalfClock()` (R150) -/
  | simHalfClock
  /-- `Clock()` of SIM (R150) -/
  | simClock
  /-- `ExecuteCycles(count)` (R150) -/
  | simExecuteCycles (n : Nat)
  /-- `WriteBit(name, level)` (R140) -/
  | simWriteBit (name : String) (l : Level)
  /-- `WriteBits(prefix, n, value)` (R144) -/
  | simWriteBits (base : String) (n : Nat) (v : Nat)
  /-- `Settle(seeds)` (R125) -/
  | simSettle (seeds : List Nat)
  /-- `ReadBit(name)` (R143): changes nothing, and is fatal on a missing name -/
  | simReadBit (name : String)
  /-- `ReadBits(prefix, n)` (R143) -/
  | simReadBits (base : String) (n : Nat)
  | simPoke (a : Addr) (v : Byte)
  deriving DecidableEq, Repr

/-- The whole machine: two engines that share nothing (R2, R76), the parameters (R6), and the host's calls still to be
made, oldest first (the MODEL's own field, log entry 8). -/
structure State where
  seq : SeqState
  sim : SimState
  params : Params
  host : List HostCmd
  deriving DecidableEq, Repr

/-- The fatal conditions of R10 and R400 to R403. Each ends the run: "the engine must not be stepped again" (R400), so
no state comes with it. Each is the manual's own, hence safe. -/
inductive Fault where
  /-- `Fatal(ConfigError)` (R401): raised by `Setup`, by every named-pin accessor, by `Settle` on a missing node, and by
  `Decode` where no sequence is defined (unreachable with the table of R96) -/
  | configError
  /-- `Fatal(OutOfRange)` (R402): raised by a bus access at an address not below `BUS_SIZE`; the address goes to the host -/
  | outOfRange (a : Addr)
  /-- `Fatal(NonConvergence)` (R403): raised by a settle that reaches the round cap -/
  | nonConvergence
  deriving DecidableEq, Repr

/-- What the model does not run. -/
inductive Refusal where
  /-- an instruction with no meaning: raised by no arm of `exec` -/
  | notModelled (mnemonic : String)
  /-- `Init()` on a SIM that is not in the state `Setup` left (D24, U10 `refuse`); safe -/
  | simInitOutsideContract
  /-- `RunStartProgram()` before `Init()` (D24, U10 `refuse`); safe -/
  | simStartBeforeInit
  /-- a pin write to `gnd` or `pwr` (R140, D24, U10 `refuse`); safe -/
  | simWriteToRail
  deriving DecidableEq, Repr

/-- The three outcomes of a step. -/
abbrev Result := Host.Outcome State Fault Refusal

/-- Change SEQ and nothing else (R2: neither engine reaches the other). -/
def State.setSeq (s : State) (q : SeqState) : State := { s with seq := q }

/-- Change SIM and nothing else. -/
def State.setSim (s : State) (m : SimState) : State := { s with sim := m }

/-- Change the host's pending calls and nothing else. -/
def State.setHost (s : State) (h : List HostCmd) : State := { s with host := h }

/-- SEQ after the first `PowerOn()` (R39, R415, R443) from given register values, on a given memory image, no input
asserted. -/
def SeqState.poweredOn (v : PowerOnValues) (mem : Memory) : SeqState :=
  { a := v.a, x := v.x, y := v.y, s := v.s, p := v.p, pc := v.pc
    adl := v.adl, adh := v.adh, eal := v.eal, eah := v.eah, dl := v.dl
    q := resetSequence
    irqLine := false, nmiLine := false, nmiPrev := false, nmiPending := false
    mem := mem
    freeCount := 0 }

/-- The machine after construction (SIM) and `PowerOn()` (SEQ), before any further step (R39), for any parameters, any
power-on values, any circuit description and any two memory images. A malformed description builds no SIM: its bare node
array stands in, so that this is a state at all; `Setup` as a call of the host faults on it (R123). -/
def State.built (p : Params) (v : PowerOnValues) (net : Net) (seqMem simMem : Memory) : State :=
  { seq := SeqState.poweredOn v seqMem
    sim := (setup net simMem).getD (net.bare simMem)
    params := p
    host := [] }

/-- The machine right after reset (R39): the defaults of R6, memory with nothing listed, and what log entries 1 to 5 name
where the spec gives no value. -/
def State.reset : State := State.built Params.spec PowerOnValues.zero Net.pinsOnly [] []

end Sys2Proof.Machine
end

