-- ==== Sys2Proof/Machine/Operands.lean ====
section
/-! DEFINITION. Operand forms: the registers a micro-operation addresses by (41_sequencer.md R175), and the net address
of every format (30_encoding.md R91, "operand meaning"). The sequences reach the net address cycle by cycle; the laws
prove that they do. -/

namespace Sys2Proof.Machine

/-- The index register's value (R175). -/
def IndexReg.get (r : IndexReg) (st : SeqState) : Byte :=
  match r with
  | .x => st.x
  | .y => st.y

/-- `L.lo` (R175). -/
def LatchPair.lo (l : LatchPair) (st : SeqState) : Byte :=
  match l with
  | .ad => st.adl
  | .ea => st.eal

/-- `L.hi` (R175). -/
def LatchPair.hi (l : LatchPair) (st : SeqState) : Byte :=
  match l with
  | .ad => st.adh
  | .ea => st.eah

/-- The 16-bit value of a latch pair (R8). -/
def LatchPair.addr (l : LatchPair) (st : SeqState) : Addr := cat (l.hi st) (l.lo st)

/-- `L.lo <- v` -/
def LatchPair.setLo (l : LatchPair) (v : Byte) (st : SeqState) : SeqState :=
  match l with
  | .ad => { st with adl := v }
  | .ea => { st with eal := v }

/-- `L.hi <- v` -/
def LatchPair.setHi (l : LatchPair) (v : Byte) (st : SeqState) : SeqState :=
  match l with
  | .ad => { st with adh := v }
  | .ea => { st with eah := v }

/-- Whether an 8-bit index addition carries into the high byte: `sum > 0xFF` (R177). -/
def carries (lo idx : Byte) : Bool := decide (lo.toNat + idx.toNat > 0xFF)

/-- The byte of memory SEQ's reference bus holds at an address (R61), read with no cycle spent. -/
def SeqState.peek (st : SeqState) (a : Addr) : Byte := st.mem.read a.toNat

/-- `b1` of R91, for an opcode at `PC`. -/
def SeqState.operand1 (st : SeqState) : Byte := st.peek (st.pc + 1)

/-- `b2` of R91. -/
def SeqState.operand2 (st : SeqState) : Byte := st.peek (st.pc + 2)

/-- `b2:b1` of R91. -/
def SeqState.operandWord (st : SeqState) : Addr := cat st.operand2 st.operand1

/-- The 16-bit pointer whose low byte is at `0x00:p` and whose high byte is at `0x00:u8(p + 1)` (R69 (b), R91). -/
def SeqState.zpPointer (st : SeqState) (p : Byte) : Addr :=
  cat (st.peek (zeroPageAddr (p + 1))) (st.peek (zeroPageAddr p))

/-- Where the indirect `JMP` goes: low byte at `b2:b1`, high byte at `b2:u8(b1 + 1)` (R69 (c), R91, R310). -/
def SeqState.jmpIndTarget (st : SeqState) : Addr :=
  cat (st.peek (cat st.operand2 (st.operand1 + 1))) (st.peek st.operandWord)

/-- The address the operand of a format lies at, for an opcode at `PC` (R91's last column). `IMM`'s operand is the byte
after the opcode. The formats that address no memory have none. -/
def operandAddr (f : Format) (st : SeqState) : Option Addr :=
  match f with
  | .imp | .acc | .ind | .rel => none
  | .imm => some (st.pc + 1)
  | .zp => some (zeroPageAddr st.operand1)
  | .zpx => some (zeroPageAddr (st.operand1 + st.x))
  | .zpy => some (zeroPageAddr (st.operand1 + st.y))
  | .abs => some st.operandWord
  | .abx => some (st.operandWord + st.x.setWidth 16)
  | .aby => some (st.operandWord + st.y.setWidth 16)
  | .izx => some (st.zpPointer (st.operand1 + st.x))
  | .izy => some (st.zpPointer st.operand1 + st.y.setWidth 16)

/-- Where a branch goes when it is taken: `u16(a + 2 + sext_16(b1))` (R91, R308). -/
def SeqState.branchTarget (st : SeqState) : Addr := st.pc + 2 + sext16 st.operand1

/-- Whether the format's index addition carries into the high byte, for an opcode at `PC` (R192, R198). -/
def indexCarries (f : Format) (st : SeqState) : Bool :=
  match f with
  | .abx => carries st.operand1 st.x
  | .aby => carries st.operand1 st.y
  | .izy => carries (st.peek (zeroPageAddr st.operand1)) st.y
  | .imp | .acc | .imm | .zp | .zpx | .zpy | .abs | .ind | .izx | .rel => false

end Sys2Proof.Machine
end

