-- ==== Sys2Proof/Machine/Effects.lean ====
section
/-! DEFINITION. The effect functions of R174: what each mnemonic computes (files 42 to 45). "Each is a state transformer
over SEQ's registers and flags only". -/

namespace Sys2Proof.Machine

/-- `A <- v` -/
def SeqState.setA (st : SeqState) (v : Byte) : SeqState := { st with a := v }

/-- `X <- v` -/
def SeqState.setX (st : SeqState) (v : Byte) : SeqState := { st with x := v }

/-- `Y <- v` -/
def SeqState.setY (st : SeqState) (v : Byte) : SeqState := { st with y := v }

/-- `S <- v` -/
def SeqState.setS (st : SeqState) (v : Byte) : SeqState := { st with s := v }

/-- `P <- v` -/
def SeqState.setP (st : SeqState) (v : Byte) : SeqState := { st with p := v }

/-- `P.f` -/
def SeqState.flag (st : SeqState) (f : Flag) : Bool := getFlag st.p f

/-- `P.f <- b` -/
def SeqState.setFlag (st : SeqState) (f : Flag) (b : Bool) : SeqState := st.setP (Machine.setFlag st.p f b)

/-- `setNZ(v)` (R32) -/
def SeqState.setNZ (st : SeqState) (v : Byte) : SeqState := st.setP (Machine.setNZ st.p v)

/-- `A` and `P` from an addition (R260 to R262). -/
def SeqState.setAdd (st : SeqState) (o : AddOut) : SeqState := (st.setA o.a).setP o.p

/-- `exec()` of the implied and accumulator instructions (R236 to R241, R274 to R281, R315, R320 to R326, R365, R368). -/
def ImpFn.apply (e : ImpFn) (st : SeqState) : SeqState :=
  match e with
  | .tax => (st.setX st.a).setNZ st.a
  | .tay => (st.setY st.a).setNZ st.a
  | .txa => (st.setA st.x).setNZ st.x
  | .tya => (st.setA st.y).setNZ st.y
  | .tsx => (st.setX st.s).setNZ st.s
  | .txs => st.setS st.x
  | .inx => (st.setX (st.x + 1)).setNZ (st.x + 1)
  | .iny => (st.setY (st.y + 1)).setNZ (st.y + 1)
  | .dex => (st.setX (st.x - 1)).setNZ (st.x - 1)
  | .dey => (st.setY (st.y - 1)).setNZ (st.y - 1)
  | .clc => st.setFlag .c false
  | .sec => st.setFlag .c true
  | .cli => st.setFlag .i false
  | .sei => st.setFlag .i true
  | .clv => st.setFlag .v false
  | .cld => st.setFlag .d false
  | .sed => st.setFlag .d true
  | .nop => st
  | .unk => st
  | .aslA => ((st.setFlag .c (aslF st.a).c).setA (aslF st.a).w).setNZ (aslF st.a).w
  | .lsrA => ((st.setFlag .c (lsrF st.a).c).setA (lsrF st.a).w).setNZ (lsrF st.a).w
  | .rolA =>
    let o := rolF st.a (st.flag .c)
    ((st.setFlag .c o.c).setA o.w).setNZ o.w
  | .rorA =>
    let o := rorF st.a (st.flag .c)
    ((st.setFlag .c o.c).setA o.w).setNZ o.w

/-- `ARR` with binary flags (R361). -/
def arrBinary (m : Byte) (st : SeqState) : SeqState :=
  let r := ((st.a &&& m) >>> 1) ||| (if st.flag .c then 0x80 else 0)
  (((st.setA r).setNZ r).setFlag .c (r.getLsbD 6)).setFlag .v (r.getLsbD 6 ^^ r.getLsbD 5)

/-- `ARR` under `DECIMAL_MODE = nmos` with `P.D = 1`: "`A`, `N`, `V`, `Z`, `C` after `ARR` are then unspecified" (R361,
U7). Two free values are drawn: one for `A`, one whose bits 7, 6, 1 and 0 go to `N`, `V`, `Z` and `C` (log entry 11). -/
def arrDecimal (st : SeqState) : SeqState :=
  let f := Config.freeByte (st.freeCount + 1)
  { (((((st.setA (Config.freeByte st.freeCount)).setFlag .n (f.getLsbD 7)).setFlag .v (f.getLsbD 6)).setFlag
      .z (f.getLsbD 1)).setFlag .c (f.getLsbD 0)) with freeCount := st.freeCount + 2 }

/-- `exec(m)` of the read class (R230 to R232, R263 to R271, R356, R359 to R364, R366, R367). -/
def ReadFn.apply (mode : DecimalMode) (e : ReadFn) (m : Byte) (st : SeqState) : SeqState :=
  match e with
  | .lda => (st.setA m).setNZ m
  | .ldx => (st.setX m).setNZ m
  | .ldy => (st.setY m).setNZ m
  | .adc => st.setAdd (adcOut mode st.p st.a m)
  | .sbc => st.setAdd (sbcOut mode st.p st.a m)
  | .and => (st.setA (st.a &&& m)).setNZ (st.a &&& m)
  | .ora => (st.setA (st.a ||| m)).setNZ (st.a ||| m)
  | .eor => (st.setA (st.a ^^^ m)).setNZ (st.a ^^^ m)
  | .bit => st.setP (bitTest st.p st.a m)
  | .cmp => st.setP (compareP st.p st.a m)
  | .cpx => st.setP (compareP st.p st.x m)
  | .cpy => st.setP (compareP st.p st.y m)
  | .lax => ((st.setA m).setX m).setNZ m
  | .las =>
    let v := m &&& st.s
    (((st.setA v).setX v).setS v).setNZ v
  | .anc =>
    let v := st.a &&& m
    ((st.setA v).setNZ v).setFlag .c (v.getLsbD 7)
  | .alr =>
    let t := st.a &&& m
    ((st.setFlag .c (t.getLsbD 0)).setA (t >>> 1)).setNZ (t >>> 1)
  | .arr => if decimalOn mode st.p then arrDecimal st else arrBinary m st
  | .axs =>
    let t := st.a &&& st.x
    ((st.setFlag .c (decide (m.toNat ≤ t.toNat))).setX (t - m)).setNZ (t - m)
  | .nop => st

/-- `val()` of the write class (R233 to R235, R355). -/
def StoreFn.value (v : StoreFn) (st : SeqState) : Byte :=
  match v with
  | .sta => st.a
  | .stx => st.x
  | .sty => st.y
  | .sax => st.a &&& st.x

/-- What an rmw effect leaves: the byte to write back and the engine's new registers. -/
structure RmwOut where
  v : Byte
  st : SeqState
  deriving DecidableEq, Repr

/-- `exec(m)` of the rmw class (R272, R273, R278 to R281, R351 to R354, R357, R358). -/
def RmwFn.apply (mode : DecimalMode) (e : RmwFn) (m : Byte) (st : SeqState) : RmwOut :=
  match e with
  | .inc => { v := m + 1, st := st.setNZ (m + 1) }
  | .dec => { v := m - 1, st := st.setNZ (m - 1) }
  | .asl =>
    let o := aslF m
    { v := o.w, st := (st.setFlag .c o.c).setNZ o.w }
  | .lsr =>
    let o := lsrF m
    { v := o.w, st := (st.setFlag .c o.c).setNZ o.w }
  | .rol =>
    let o := rolF m (st.flag .c)
    { v := o.w, st := (st.setFlag .c o.c).setNZ o.w }
  | .ror =>
    let o := rorF m (st.flag .c)
    { v := o.w, st := (st.setFlag .c o.c).setNZ o.w }
  | .slo =>
    let o := aslF m
    { v := o.w, st := ((st.setFlag .c o.c).setA (st.a ||| o.w)).setNZ (st.a ||| o.w) }
  | .rla =>
    let o := rolF m (st.flag .c)
    { v := o.w, st := ((st.setFlag .c o.c).setA (st.a &&& o.w)).setNZ (st.a &&& o.w) }
  | .sre =>
    let o := lsrF m
    { v := o.w, st := ((st.setFlag .c o.c).setA (st.a ^^^ o.w)).setNZ (st.a ^^^ o.w) }
  | .rra =>
    let o := rorF m (st.flag .c)
    let st := st.setFlag .c o.c
    { v := o.w, st := st.setAdd (adcOut mode st.p st.a o.w) }
  | .dcp => { v := m - 1, st := st.setP (compareP st.p st.a (m - 1)) }
  | .isc => { v := m + 1, st := st.setAdd (sbcOut mode st.p st.a (m + 1)) }

/-- `cond()` of the branches (R300 to R307). -/
def Cond.holds (c : Cond) (st : SeqState) : Bool :=
  match c with
  | .bpl => flagIs st.p .n false
  | .bmi => flagIs st.p .n true
  | .bvc => flagIs st.p .v false
  | .bvs => flagIs st.p .v true
  | .bcc => flagIs st.p .c false
  | .bcs => flagIs st.p .c true
  | .bne => flagIs st.p .z false
  | .beq => flagIs st.p .z true

/-- The pushed expressions of R178, evaluated when the operation executes. -/
def PushVal.value (v : PushVal) (st : SeqState) : Byte :=
  match v with
  | .pch => hiByte st.pc
  | .pcl => loByte st.pc
  | .a => st.a
  | .statusBreak => pushedBreak st.p
  | .statusIrq => pushedIrq st.p

/-- `load(m)` of R178. -/
def LoadFn.apply (l : LoadFn) (m : Byte) (st : SeqState) : SeqState :=
  match l with
  | .pcl => { st with pc := cat (hiByte st.pc) m }
  | .pch => { st with pc := cat m (loByte st.pc) }
  | .p => st.setP (pulledStatus st.p m)
  | .a => (st.setA m).setNZ m

end Sys2Proof.Machine
end

