-- ==== Sys2Proof/Machine/Ops.lean ====
section
/-! DEFINITION. The shared operations of SEQ: bus accesses (20_memory.md R60 to R62), what each micro-operation kind does
(41_sequencer.md R175 to R179), running a sequence, and taking and leaving an interrupt (60_exceptions.md R414 to R417). -/

namespace Sys2Proof.Machine

/-- `MemRead(addr, 1)` on SEQ's bus (R9, R61, R62). -/
def SeqState.memRead (p : Params) (st : SeqState) (a : Addr) : Except Fault Byte :=
  if a.toNat < p.busSize then .ok (st.peek a) else .error (.outOfRange a)

/-- `mem[a] <- v`. -/
def SeqState.poke (st : SeqState) (a : Addr) (v : Byte) : SeqState :=
  { st with mem := st.mem.write a.toNat v }

/-- `MemWrite(addr, 1, v)` on SEQ's bus (R9, R61, R62). -/
def SeqState.memWrite (p : Params) (st : SeqState) (a : Addr) (v : Byte) : Except Fault SeqState :=
  if a.toNat < p.busSize then .ok (st.poke a v) else .error (.outOfRange a)

/-- The bus access of one micro-operation (R175): a read, a write, or none of its own. -/
inductive BusRequest where
  | idle
  | read (a : Addr)
  | write (a : Addr) (v : Byte)
  deriving DecidableEq, Repr

/-- `L.hi:u8(L.lo + r)`: the address before the high byte is corrected (R175, R177). -/
def LatchPair.indexedAddr (l : LatchPair) (r : IndexReg) (st : SeqState) : Addr :=
  cat (l.hi st) (l.lo st + r.get st)

/-- The "bus access" column of R175. -/
def MicroOp.request (mode : DecimalMode) (op : MicroOp) (st : SeqState) : BusRequest :=
  match op with
  | .opc => .idle
  | .intT0 => .read st.pc
  | .dummyPc _ => .read st.pc
  | .dummyPcInc => .read st.pc
  | .imm _ => .read st.pc
  | .fetchAdl => .read st.pc
  | .fetchZp => .read st.pc
  | .fetchAdh => .read st.pc
  | .fetchAdhJmp => .read st.pc
  | .brOffset _ => .read st.pc
  | .brTake => .read st.pc
  | .brFix => .read st.pc
  | .zpIndex _ => .read (zeroPageAddr st.adl)
  | .read l _ => .read (l.addr st)
  | .readIdx l r _ => .read (l.indexedAddr r st)
  | .fixRead l _ => .read (cat (l.hi st + 1) (l.lo st))
  | .dummyIdx l r => .read (l.indexedAddr r st)
  | .write l v => .write (l.addr st) (v.value st)
  | .rmwDummy l => .write (l.addr st) st.dl
  | .rmwFinal l e => .write (l.addr st) (e.apply mode st.dl st).v
  | .fetchEal => .read (cat st.adh st.adl)
  | .fetchEah => .read (cat st.adh (st.adl + 1))
  | .fetchEahJmp => .read (cat st.adh (st.adl + 1))
  | .push v => .write (stackAddr st.s) (v.value st)
  | .resetPush => .read (stackAddr st.s)
  | .stackDummy => .read (stackAddr st.s)
  | .pullDummy => .read (stackAddr st.s)
  | .pull _ => .read (stackAddr st.s)
  | .pullInc _ => .read (stackAddr st.s)
  | .vecLo v => .read v
  | .vecHi v => .read (v + 1)
  | .setPcAd => .idle

/-- `if e is given then e()` (R176). -/
def applyImp (e : Option ImpFn) (st : SeqState) : SeqState :=
  match e with
  | some e => e.apply st
  | none => st

/-- `if e is given then e(DL)` (R177). -/
def applyRead (mode : DecimalMode) (e : Option ReadFn) (m : Byte) (st : SeqState) : SeqState :=
  match e with
  | some e => e.apply mode m st
  | none => st

/-- `drop_next(Q)` (R11). -/
def SeqState.dropNext (st : SeqState) : SeqState := { st with q := st.q.drop 1 }

/-- The register and latch effect of one micro-operation (R176 to R179), the operation itself already popped from `Q`.
`data` is the byte its read returns; a write or an operation with no access does not look at it. -/
def MicroOp.effect (mode : DecimalMode) (op : MicroOp) (data : Byte) (st : SeqState) : SeqState :=
  match op with
  | .opc => { st with pc := st.pc + 1 }
  | .intT0 => st
  | .dummyPc e => applyImp e st
  | .dummyPcInc => { st with pc := st.pc + 1 }
  | .imm e => e.apply mode data { st with dl := data, pc := st.pc + 1 }
  | .fetchAdl => { st with adl := data, pc := st.pc + 1 }
  | .fetchZp => { st with adl := data, adh := 0x00, pc := st.pc + 1 }
  | .fetchAdh => { st with adh := data, pc := st.pc + 1 }
  | .fetchAdhJmp => { st with adh := data, pc := cat data st.adl }
  | .brOffset c =>
    let st := { st with dl := data, pc := st.pc + 1 }
    if c.holds st then st else { st with q := [] }
  | .brTake =>
    let t := st.pc + sext16 st.dl
    let st' := if hiByte t = hiByte st.pc then st.dropNext else st
    { st' with pc := cat (hiByte st.pc) (loByte t) }
  | .brFix =>
    let hi := if st.dl.msb then hiByte st.pc - 1 else hiByte st.pc + 1
    { st with pc := cat hi (loByte st.pc) }
  | .zpIndex r => { st with adl := st.adl + r.get st }
  | .read _ e => applyRead mode e data { st with dl := data }
  | .readIdx l r e =>
    let st' := l.setLo (l.lo st + r.get st) { st with dl := data }
    if carries (l.lo st) (r.get st) then st' else (e.apply mode data st').dropNext
  | .fixRead l e => e.apply mode data (l.setHi (l.hi st + 1) { st with dl := data })
  | .dummyIdx l r =>
    let st' := l.setLo (l.lo st + r.get st) st
    if carries (l.lo st) (r.get st) then l.setHi (l.hi st + 1) st' else st'
  | .write _ _ => st
  | .rmwDummy _ => st
  | .rmwFinal _ e =>
    let o := e.apply mode st.dl st
    { o.st with dl := o.v }
  | .fetchEal => { st with eal := data }
  | .fetchEah => { st with eah := data }
  | .fetchEahJmp => { st with eah := data, pc := cat data st.eal }
  | .push _ => { st with s := st.s - 1 }
  | .resetPush => { st with s := st.s - 1 }
  | .stackDummy => st
  | .pullDummy => { st with s := st.s + 1 }
  | .pull l => l.apply data { st with dl := data }
  | .pullInc l =>
    let st' := l.apply data { st with dl := data }
    { st' with s := st'.s + 1 }
  | .vecLo _ => { (st.setFlag .i true) with adl := data }
  | .vecHi _ => { st with adh := data }
  | .setPcAd => { st with pc := cat st.adh st.adl }

/-- `Execute(op)`: its one bus access, then its effect (R170, R176 to R179). -/
def runOp (p : Params) (op : MicroOp) (st : SeqState) : Except Fault SeqState :=
  match op.request p.decimalMode st with
  | .idle => .ok (op.effect p.decimalMode 0 st)
  | .read a =>
    match st.memRead p a with
    | .ok data => .ok (op.effect p.decimalMode data st)
    | .error f => .error f
  | .write a v =>
    match st.memWrite p a v with
    | .ok st' => .ok (op.effect p.decimalMode v st')
    | .error f => .error f

/-- Run the queue to the end of its sequence: until it is empty, or only the free tail is left, which belongs to the next
`Clock()` (R172, R451). `n` bounds the operations run; each takes at least one element off the queue. -/
def finish (p : Params) : Nat → SeqState → Except Fault SeqState
  | 0, st => .ok st
  | n + 1, st =>
    match st.q with
    | [] => .ok st
    | op :: rest =>
      if op.isFree then .ok st
      else
        match runOp p op { st with q := rest } with
        | .ok st' => finish p n st'
        | .error f => .error f

/-- `Q <- ops`, then run it to its end. -/
def runSequence (p : Params) (ops : List MicroOp) (st : SeqState) : Except Fault SeqState :=
  finish p ops.length { st with q := ops }

/-- An engine's outcome as the machine's. -/
def State.ofSeq (s : State) (r : Except Fault SeqState) : Result :=
  match r with
  | .ok st => .next (s.setSeq st)
  | .error f => .fault f

/-- Run the sequence an instruction decodes to, from the cycle after whose opcode read it starts (R171, R173). -/
def runInstr (ops : List MicroOp) (s : State) : Result := s.ofSeq (runSequence s.params ops s.seq)

/-- Finish the sequence in flight. -/
def finishInFlight (s : State) : Result := s.ofSeq (finish s.params s.seq.q.length s.seq)

/-- Taking an IRQ or an NMI: `InterruptSequence(v)` run to its end (R414, R416). `PC`, then the status byte with bit 5 set
and bit 4 clear, go to the stack; `P.I` is set; the vector's content is left in `ADH:ADL`, and the free tail moves it to
`PC` at the start of the next `Clock()` (R451). `BRK` takes the same path through R208. -/
def takeInterrupt (v : Addr) (s : State) : Result := runInstr (interruptSequence v) s

/-- The return from any of them: `RTI` (R207, R313, R417). -/
def returnFromInterrupt (s : State) : Result := runInstr seqRti s

/-- `PowerOn()` (R415, R443): replaces `Q`, clears `nmiPending`, samples `nmiLine`; no register, latch or memory byte is
written and the bus is not touched. -/
def SeqState.powerOn (st : SeqState) : SeqState :=
  { st with q := resetSequence, nmiPending := false, nmiPrev := st.nmiLine }

end Sys2Proof.Machine
end

