-- ==== Sys2Proof/Machine/Arithmetic.lean ====
section
/-! DEFINITION. Arithmetic, logic, compare, increment and shift instructions (43_arithmetic_logic.md R260 to R282). A meaning runs the sequence its row
names with the mnemonic's effect function bound into it (R174, R350); the opcode byte has been read (R171). -/

namespace Sys2Proof.Machine

/-- 0x61 `ADC` IZX (R263), sequence R195. -/
def execAdcIzx (s : State) : Result := runInstr (seqIzxRead .adc) s

/-- 0x65 `ADC` ZP (R263), sequence R182. -/
def execAdcZp (s : State) : Result := runInstr (seqZpRead .adc) s

/-- 0x69 `ADC` IMM (R263), sequence R181. -/
def execAdcImm (s : State) : Result := runInstr (seqImm .adc) s

/-- 0x6D `ADC` ABS (R263), sequence R188. -/
def execAdcAbs (s : State) : Result := runInstr (seqAbsRead .adc) s

/-- 0x71 `ADC` IZY (R263), sequence R198. -/
def execAdcIzy (s : State) : Result := runInstr (seqIzyRead .adc) s

/-- 0x75 `ADC` ZPX (R263), sequence R185. -/
def execAdcZpx (s : State) : Result := runInstr (seqZpIdxRead .x .adc) s

/-- 0x79 `ADC` ABY (R263), sequence R192. -/
def execAdcAby (s : State) : Result := runInstr (seqAbsIdxRead .y .adc) s

/-- 0x7D `ADC` ABX (R263), sequence R192. -/
def execAdcAbx (s : State) : Result := runInstr (seqAbsIdxRead .x .adc) s

/-- 0xE1 `SBC` IZX (R264), sequence R195. -/
def execSbcIzx (s : State) : Result := runInstr (seqIzxRead .sbc) s

/-- 0xE5 `SBC` ZP (R264), sequence R182. -/
def execSbcZp (s : State) : Result := runInstr (seqZpRead .sbc) s

/-- 0xE9 `SBC` IMM (R264), sequence R181. -/
def execSbcImm (s : State) : Result := runInstr (seqImm .sbc) s

/-- 0xED `SBC` ABS (R264), sequence R188. -/
def execSbcAbs (s : State) : Result := runInstr (seqAbsRead .sbc) s

/-- 0xF1 `SBC` IZY (R264), sequence R198. -/
def execSbcIzy (s : State) : Result := runInstr (seqIzyRead .sbc) s

/-- 0xF5 `SBC` ZPX (R264), sequence R185. -/
def execSbcZpx (s : State) : Result := runInstr (seqZpIdxRead .x .sbc) s

/-- 0xF9 `SBC` ABY (R264), sequence R192. -/
def execSbcAby (s : State) : Result := runInstr (seqAbsIdxRead .y .sbc) s

/-- 0xFD `SBC` ABX (R264), sequence R192. -/
def execSbcAbx (s : State) : Result := runInstr (seqAbsIdxRead .x .sbc) s

/-- 0x21 `AND` IZX (R265), sequence R195. -/
def execAndIzx (s : State) : Result := runInstr (seqIzxRead .and) s

/-- 0x25 `AND` ZP (R265), sequence R182. -/
def execAndZp (s : State) : Result := runInstr (seqZpRead .and) s

/-- 0x29 `AND` IMM (R265), sequence R181. -/
def execAndImm (s : State) : Result := runInstr (seqImm .and) s

/-- 0x2D `AND` ABS (R265), sequence R188. -/
def execAndAbs (s : State) : Result := runInstr (seqAbsRead .and) s

/-- 0x31 `AND` IZY (R265), sequence R198. -/
def execAndIzy (s : State) : Result := runInstr (seqIzyRead .and) s

/-- 0x35 `AND` ZPX (R265), sequence R185. -/
def execAndZpx (s : State) : Result := runInstr (seqZpIdxRead .x .and) s

/-- 0x39 `AND` ABY (R265), sequence R192. -/
def execAndAby (s : State) : Result := runInstr (seqAbsIdxRead .y .and) s

/-- 0x3D `AND` ABX (R265), sequence R192. -/
def execAndAbx (s : State) : Result := runInstr (seqAbsIdxRead .x .and) s

/-- 0x01 `ORA` IZX (R266), sequence R195. -/
def execOraIzx (s : State) : Result := runInstr (seqIzxRead .ora) s

/-- 0x05 `ORA` ZP (R266), sequence R182. -/
def execOraZp (s : State) : Result := runInstr (seqZpRead .ora) s

/-- 0x09 `ORA` IMM (R266), sequence R181. -/
def execOraImm (s : State) : Result := runInstr (seqImm .ora) s

/-- 0x0D `ORA` ABS (R266), sequence R188. -/
def execOraAbs (s : State) : Result := runInstr (seqAbsRead .ora) s

/-- 0x11 `ORA` IZY (R266), sequence R198. -/
def execOraIzy (s : State) : Result := runInstr (seqIzyRead .ora) s

/-- 0x15 `ORA` ZPX (R266), sequence R185. -/
def execOraZpx (s : State) : Result := runInstr (seqZpIdxRead .x .ora) s

/-- 0x19 `ORA` ABY (R266), sequence R192. -/
def execOraAby (s : State) : Result := runInstr (seqAbsIdxRead .y .ora) s

/-- 0x1D `ORA` ABX (R266), sequence R192. -/
def execOraAbx (s : State) : Result := runInstr (seqAbsIdxRead .x .ora) s

/-- 0x41 `EOR` IZX (R267), sequence R195. -/
def execEorIzx (s : State) : Result := runInstr (seqIzxRead .eor) s

/-- 0x45 `EOR` ZP (R267), sequence R182. -/
def execEorZp (s : State) : Result := runInstr (seqZpRead .eor) s

/-- 0x49 `EOR` IMM (R267), sequence R181. -/
def execEorImm (s : State) : Result := runInstr (seqImm .eor) s

/-- 0x4D `EOR` ABS (R267), sequence R188. -/
def execEorAbs (s : State) : Result := runInstr (seqAbsRead .eor) s

/-- 0x51 `EOR` IZY (R267), sequence R198. -/
def execEorIzy (s : State) : Result := runInstr (seqIzyRead .eor) s

/-- 0x55 `EOR` ZPX (R267), sequence R185. -/
def execEorZpx (s : State) : Result := runInstr (seqZpIdxRead .x .eor) s

/-- 0x59 `EOR` ABY (R267), sequence R192. -/
def execEorAby (s : State) : Result := runInstr (seqAbsIdxRead .y .eor) s

/-- 0x5D `EOR` ABX (R267), sequence R192. -/
def execEorAbx (s : State) : Result := runInstr (seqAbsIdxRead .x .eor) s

/-- 0x24 `BIT` ZP (R268), sequence R182. -/
def execBitZp (s : State) : Result := runInstr (seqZpRead .bit) s

/-- 0x2C `BIT` ABS (R268), sequence R188. -/
def execBitAbs (s : State) : Result := runInstr (seqAbsRead .bit) s

/-- 0xC1 `CMP` IZX (R269), sequence R195. -/
def execCmpIzx (s : State) : Result := runInstr (seqIzxRead .cmp) s

/-- 0xC5 `CMP` ZP (R269), sequence R182. -/
def execCmpZp (s : State) : Result := runInstr (seqZpRead .cmp) s

/-- 0xC9 `CMP` IMM (R269), sequence R181. -/
def execCmpImm (s : State) : Result := runInstr (seqImm .cmp) s

/-- 0xCD `CMP` ABS (R269), sequence R188. -/
def execCmpAbs (s : State) : Result := runInstr (seqAbsRead .cmp) s

/-- 0xD1 `CMP` IZY (R269), sequence R198. -/
def execCmpIzy (s : State) : Result := runInstr (seqIzyRead .cmp) s

/-- 0xD5 `CMP` ZPX (R269), sequence R185. -/
def execCmpZpx (s : State) : Result := runInstr (seqZpIdxRead .x .cmp) s

/-- 0xD9 `CMP` ABY (R269), sequence R192. -/
def execCmpAby (s : State) : Result := runInstr (seqAbsIdxRead .y .cmp) s

/-- 0xDD `CMP` ABX (R269), sequence R192. -/
def execCmpAbx (s : State) : Result := runInstr (seqAbsIdxRead .x .cmp) s

/-- 0xE0 `CPX` IMM (R270), sequence R181. -/
def execCpxImm (s : State) : Result := runInstr (seqImm .cpx) s

/-- 0xE4 `CPX` ZP (R270), sequence R182. -/
def execCpxZp (s : State) : Result := runInstr (seqZpRead .cpx) s

/-- 0xEC `CPX` ABS (R270), sequence R188. -/
def execCpxAbs (s : State) : Result := runInstr (seqAbsRead .cpx) s

/-- 0xC0 `CPY` IMM (R271), sequence R181. -/
def execCpyImm (s : State) : Result := runInstr (seqImm .cpy) s

/-- 0xC4 `CPY` ZP (R271), sequence R182. -/
def execCpyZp (s : State) : Result := runInstr (seqZpRead .cpy) s

/-- 0xCC `CPY` ABS (R271), sequence R188. -/
def execCpyAbs (s : State) : Result := runInstr (seqAbsRead .cpy) s

/-- 0xE6 `INC` ZP (R272), sequence R184. -/
def execIncZp (s : State) : Result := runInstr (seqZpRmw .inc) s

/-- 0xEE `INC` ABS (R272), sequence R190. -/
def execIncAbs (s : State) : Result := runInstr (seqAbsRmw .inc) s

/-- 0xF6 `INC` ZPX (R272), sequence R187. -/
def execIncZpx (s : State) : Result := runInstr (seqZpIdxRmw .x .inc) s

/-- 0xFE `INC` ABX (R272), sequence R194. -/
def execIncAbx (s : State) : Result := runInstr (seqAbsIdxRmw .x .inc) s

/-- 0xC6 `DEC` ZP (R273), sequence R184. -/
def execDecZp (s : State) : Result := runInstr (seqZpRmw .dec) s

/-- 0xCE `DEC` ABS (R273), sequence R190. -/
def execDecAbs (s : State) : Result := runInstr (seqAbsRmw .dec) s

/-- 0xD6 `DEC` ZPX (R273), sequence R187. -/
def execDecZpx (s : State) : Result := runInstr (seqZpIdxRmw .x .dec) s

/-- 0xDE `DEC` ABX (R273), sequence R194. -/
def execDecAbx (s : State) : Result := runInstr (seqAbsIdxRmw .x .dec) s

/-- 0xE8 `INX` IMP (R274), sequence R180. -/
def execInx (s : State) : Result := runInstr (seqImp .inx) s

/-- 0xC8 `INY` IMP (R275), sequence R180. -/
def execIny (s : State) : Result := runInstr (seqImp .iny) s

/-- 0xCA `DEX` IMP (R276), sequence R180. -/
def execDex (s : State) : Result := runInstr (seqImp .dex) s

/-- 0x88 `DEY` IMP (R277), sequence R180. -/
def execDey (s : State) : Result := runInstr (seqImp .dey) s

/-- 0x06 `ASL` ZP (R278), sequence R184. -/
def execAslZp (s : State) : Result := runInstr (seqZpRmw .asl) s

/-- 0x0A `ASL` ACC (R278), sequence R180. -/
def execAslAcc (s : State) : Result := runInstr (seqImp .aslA) s

/-- 0x0E `ASL` ABS (R278), sequence R190. -/
def execAslAbs (s : State) : Result := runInstr (seqAbsRmw .asl) s

/-- 0x16 `ASL` ZPX (R278), sequence R187. -/
def execAslZpx (s : State) : Result := runInstr (seqZpIdxRmw .x .asl) s

/-- 0x1E `ASL` ABX (R278), sequence R194. -/
def execAslAbx (s : State) : Result := runInstr (seqAbsIdxRmw .x .asl) s

/-- 0x46 `LSR` ZP (R279), sequence R184. -/
def execLsrZp (s : State) : Result := runInstr (seqZpRmw .lsr) s

/-- 0x4A `LSR` ACC (R279), sequence R180. -/
def execLsrAcc (s : State) : Result := runInstr (seqImp .lsrA) s

/-- 0x4E `LSR` ABS (R279), sequence R190. -/
def execLsrAbs (s : State) : Result := runInstr (seqAbsRmw .lsr) s

/-- 0x56 `LSR` ZPX (R279), sequence R187. -/
def execLsrZpx (s : State) : Result := runInstr (seqZpIdxRmw .x .lsr) s

/-- 0x5E `LSR` ABX (R279), sequence R194. -/
def execLsrAbx (s : State) : Result := runInstr (seqAbsIdxRmw .x .lsr) s

/-- 0x26 `ROL` ZP (R280), sequence R184. -/
def execRolZp (s : State) : Result := runInstr (seqZpRmw .rol) s

/-- 0x2A `ROL` ACC (R280), sequence R180. -/
def execRolAcc (s : State) : Result := runInstr (seqImp .rolA) s

/-- 0x2E `ROL` ABS (R280), sequence R190. -/
def execRolAbs (s : State) : Result := runInstr (seqAbsRmw .rol) s

/-- 0x36 `ROL` ZPX (R280), sequence R187. -/
def execRolZpx (s : State) : Result := runInstr (seqZpIdxRmw .x .rol) s

/-- 0x3E `ROL` ABX (R280), sequence R194. -/
def execRolAbx (s : State) : Result := runInstr (seqAbsIdxRmw .x .rol) s

/-- 0x66 `ROR` ZP (R281), sequence R184. -/
def execRorZp (s : State) : Result := runInstr (seqZpRmw .ror) s

/-- 0x6A `ROR` ACC (R281), sequence R180. -/
def execRorAcc (s : State) : Result := runInstr (seqImp .rorA) s

/-- 0x6E `ROR` ABS (R281), sequence R190. -/
def execRorAbs (s : State) : Result := runInstr (seqAbsRmw .ror) s

/-- 0x76 `ROR` ZPX (R281), sequence R187. -/
def execRorZpx (s : State) : Result := runInstr (seqZpIdxRmw .x .ror) s

/-- 0x7E `ROR` ABX (R281), sequence R194. -/
def execRorAbx (s : State) : Result := runInstr (seqAbsIdxRmw .x .ror) s

end Sys2Proof.Machine
end

