-- ==== Sys2Proof/Machine/Control.lean ====
section
/-! DEFINITION. Control transfer, stack, flag and system instructions (44_control_stack_flags.md R300 to R328). A meaning runs the sequence its row
names with the mnemonic's effect function bound into it (R174, R350); the opcode byte has been read (R171). -/

namespace Sys2Proof.Machine

/-- 0x10 `BPL` REL (R300), sequence R202. -/
def execBpl (s : State) : Result := runInstr (seqBranch .bpl) s

/-- 0x30 `BMI` REL (R301), sequence R202. -/
def execBmi (s : State) : Result := runInstr (seqBranch .bmi) s

/-- 0x50 `BVC` REL (R302), sequence R202. -/
def execBvc (s : State) : Result := runInstr (seqBranch .bvc) s

/-- 0x70 `BVS` REL (R303), sequence R202. -/
def execBvs (s : State) : Result := runInstr (seqBranch .bvs) s

/-- 0x90 `BCC` REL (R304), sequence R202. -/
def execBcc (s : State) : Result := runInstr (seqBranch .bcc) s

/-- 0xB0 `BCS` REL (R305), sequence R202. -/
def execBcs (s : State) : Result := runInstr (seqBranch .bcs) s

/-- 0xD0 `BNE` REL (R306), sequence R202. -/
def execBne (s : State) : Result := runInstr (seqBranch .bne) s

/-- 0xF0 `BEQ` REL (R307), sequence R202. -/
def execBeq (s : State) : Result := runInstr (seqBranch .beq) s

/-- 0x4C `JMP` ABS (R309), sequence R191. -/
def execJmpAbs (s : State) : Result := runInstr seqJmp s

/-- 0x6C `JMP` IND (R310), sequence R201. -/
def execJmpInd (s : State) : Result := runInstr seqJmpInd s

/-- 0x20 `JSR` ABS (R311), sequence R205. -/
def execJsr (s : State) : Result := runInstr seqJsr s

/-- 0x60 `RTS` IMP (R312), sequence R206. -/
def execRts (s : State) : Result := runInstr seqRts s

/-- 0x40 `RTI` IMP (R313), sequence R207. -/
def execRti (s : State) : Result := returnFromInterrupt s

/-- 0x00 `BRK` IMP (R314), sequence R208. -/
def execBrk (s : State) : Result := runInstr seqBrk s

/-- 0xEA `NOP` IMP (R315), sequence R180. -/
def execNop (s : State) : Result := runInstr (seqImp .nop) s

/-- 0x48 `PHA` IMP (R316), sequence R203. -/
def execPha (s : State) : Result := runInstr (seqPush .a) s

/-- 0x08 `PHP` IMP (R317), sequence R203. -/
def execPhp (s : State) : Result := runInstr (seqPush .statusBreak) s

/-- 0x68 `PLA` IMP (R318), sequence R204. -/
def execPla (s : State) : Result := runInstr (seqPull .a) s

/-- 0x28 `PLP` IMP (R319), sequence R204. -/
def execPlp (s : State) : Result := runInstr (seqPull .p) s

/-- 0x18 `CLC` IMP (R320), sequence R180. -/
def execClc (s : State) : Result := runInstr (seqImp .clc) s

/-- 0x38 `SEC` IMP (R321), sequence R180. -/
def execSec (s : State) : Result := runInstr (seqImp .sec) s

/-- 0x58 `CLI` IMP (R322), sequence R180. -/
def execCli (s : State) : Result := runInstr (seqImp .cli) s

/-- 0x78 `SEI` IMP (R323), sequence R180. -/
def execSei (s : State) : Result := runInstr (seqImp .sei) s

/-- 0xB8 `CLV` IMP (R324), sequence R180. -/
def execClv (s : State) : Result := runInstr (seqImp .clv) s

/-- 0xD8 `CLD` IMP (R325), sequence R180. -/
def execCld (s : State) : Result := runInstr (seqImp .cld) s

/-- 0xF8 `SED` IMP (R326), sequence R180. -/
def execSed (s : State) : Result := runInstr (seqImp .sed) s

end Sys2Proof.Machine
end

