-- ==== Sys2Proof/Machine/LoadStore.lean ====
section
/-! DEFINITION. Load, store and register-transfer instructions (42_load_store_transfer.md R230 to R243). A meaning runs the sequence its row
names with the mnemonic's effect function bound into it (R174, R350); the opcode byte has been read (R171). -/

namespace Sys2Proof.Machine

/-- 0xA1 `LDA` IZX (R230), sequence R195. -/
def execLdaIzx (s : State) : Result := runInstr (seqIzxRead .lda) s

/-- 0xA5 `LDA` ZP (R230), sequence R182. -/
def execLdaZp (s : State) : Result := runInstr (seqZpRead .lda) s

/-- 0xA9 `LDA` IMM (R230), sequence R181. -/
def execLdaImm (s : State) : Result := runInstr (seqImm .lda) s

/-- 0xAD `LDA` ABS (R230), sequence R188. -/
def execLdaAbs (s : State) : Result := runInstr (seqAbsRead .lda) s

/-- 0xB1 `LDA` IZY (R230), sequence R198. -/
def execLdaIzy (s : State) : Result := runInstr (seqIzyRead .lda) s

/-- 0xB5 `LDA` ZPX (R230), sequence R185. -/
def execLdaZpx (s : State) : Result := runInstr (seqZpIdxRead .x .lda) s

/-- 0xB9 `LDA` ABY (R230), sequence R192. -/
def execLdaAby (s : State) : Result := runInstr (seqAbsIdxRead .y .lda) s

/-- 0xBD `LDA` ABX (R230), sequence R192. -/
def execLdaAbx (s : State) : Result := runInstr (seqAbsIdxRead .x .lda) s

/-- 0xA2 `LDX` IMM (R231), sequence R181. -/
def execLdxImm (s : State) : Result := runInstr (seqImm .ldx) s

/-- 0xA6 `LDX` ZP (R231), sequence R182. -/
def execLdxZp (s : State) : Result := runInstr (seqZpRead .ldx) s

/-- 0xAE `LDX` ABS (R231), sequence R188. -/
def execLdxAbs (s : State) : Result := runInstr (seqAbsRead .ldx) s

/-- 0xB6 `LDX` ZPY (R231), sequence R185. -/
def execLdxZpy (s : State) : Result := runInstr (seqZpIdxRead .y .ldx) s

/-- 0xBE `LDX` ABY (R231), sequence R192. -/
def execLdxAby (s : State) : Result := runInstr (seqAbsIdxRead .y .ldx) s

/-- 0xA0 `LDY` IMM (R232), sequence R181. -/
def execLdyImm (s : State) : Result := runInstr (seqImm .ldy) s

/-- 0xA4 `LDY` ZP (R232), sequence R182. -/
def execLdyZp (s : State) : Result := runInstr (seqZpRead .ldy) s

/-- 0xAC `LDY` ABS (R232), sequence R188. -/
def execLdyAbs (s : State) : Result := runInstr (seqAbsRead .ldy) s

/-- 0xB4 `LDY` ZPX (R232), sequence R185. -/
def execLdyZpx (s : State) : Result := runInstr (seqZpIdxRead .x .ldy) s

/-- 0xBC `LDY` ABX (R232), sequence R192. -/
def execLdyAbx (s : State) : Result := runInstr (seqAbsIdxRead .x .ldy) s

/-- 0x81 `STA` IZX (R233), sequence R196. -/
def execStaIzx (s : State) : Result := runInstr (seqIzxWrite .sta) s

/-- 0x85 `STA` ZP (R233), sequence R183. -/
def execStaZp (s : State) : Result := runInstr (seqZpWrite .sta) s

/-- 0x8D `STA` ABS (R233), sequence R189. -/
def execStaAbs (s : State) : Result := runInstr (seqAbsWrite .sta) s

/-- 0x91 `STA` IZY (R233), sequence R199. -/
def execStaIzy (s : State) : Result := runInstr (seqIzyWrite .sta) s

/-- 0x95 `STA` ZPX (R233), sequence R186. -/
def execStaZpx (s : State) : Result := runInstr (seqZpIdxWrite .x .sta) s

/-- 0x99 `STA` ABY (R233), sequence R193. -/
def execStaAby (s : State) : Result := runInstr (seqAbsIdxWrite .y .sta) s

/-- 0x9D `STA` ABX (R233), sequence R193. -/
def execStaAbx (s : State) : Result := runInstr (seqAbsIdxWrite .x .sta) s

/-- 0x86 `STX` ZP (R234), sequence R183. -/
def execStxZp (s : State) : Result := runInstr (seqZpWrite .stx) s

/-- 0x8E `STX` ABS (R234), sequence R189. -/
def execStxAbs (s : State) : Result := runInstr (seqAbsWrite .stx) s

/-- 0x96 `STX` ZPY (R234), sequence R186. -/
def execStxZpy (s : State) : Result := runInstr (seqZpIdxWrite .y .stx) s

/-- 0x84 `STY` ZP (R235), sequence R183. -/
def execStyZp (s : State) : Result := runInstr (seqZpWrite .sty) s

/-- 0x8C `STY` ABS (R235), sequence R189. -/
def execStyAbs (s : State) : Result := runInstr (seqAbsWrite .sty) s

/-- 0x94 `STY` ZPX (R235), sequence R186. -/
def execStyZpx (s : State) : Result := runInstr (seqZpIdxWrite .x .sty) s

/-- 0xAA `TAX` IMP (R236), sequence R180. -/
def execTax (s : State) : Result := runInstr (seqImp .tax) s

/-- 0xA8 `TAY` IMP (R237), sequence R180. -/
def execTay (s : State) : Result := runInstr (seqImp .tay) s

/-- 0x8A `TXA` IMP (R238), sequence R180. -/
def execTxa (s : State) : Result := runInstr (seqImp .txa) s

/-- 0x98 `TYA` IMP (R239), sequence R180. -/
def execTya (s : State) : Result := runInstr (seqImp .tya) s

/-- 0xBA `TSX` IMP (R240), sequence R180. -/
def execTsx (s : State) : Result := runInstr (seqImp .tsx) s

/-- 0x9A `TXS` IMP (R241), sequence R180. -/
def execTxs (s : State) : Result := runInstr (seqImp .txs) s

end Sys2Proof.Machine
end

