-- ==== Sys2Proof/Machine/Undocumented.lean ====
section
/-! DEFINITION. The undocumented opcodes (45_undocumented.md R350 to R368). A meaning runs the sequence its row
names with the mnemonic's effect function bound into it (R174, R350); the opcode byte has been read (R171). -/

namespace Sys2Proof.Machine

/-- 0x03 `SLO*` IZX (R351), sequence R197. -/
def execSloIzx (s : State) : Result := runInstr (seqIzxRmw .slo) s

/-- 0x07 `SLO*` ZP (R351), sequence R184. -/
def execSloZp (s : State) : Result := runInstr (seqZpRmw .slo) s

/-- 0x0F `SLO*` ABS (R351), sequence R190. -/
def execSloAbs (s : State) : Result := runInstr (seqAbsRmw .slo) s

/-- 0x13 `SLO*` IZY (R351), sequence R200. -/
def execSloIzy (s : State) : Result := runInstr (seqIzyRmw .slo) s

/-- 0x17 `SLO*` ZPX (R351), sequence R187. -/
def execSloZpx (s : State) : Result := runInstr (seqZpIdxRmw .x .slo) s

/-- 0x1B `SLO*` ABY (R351), sequence R194. -/
def execSloAby (s : State) : Result := runInstr (seqAbsIdxRmw .y .slo) s

/-- 0x1F `SLO*` ABX (R351), sequence R194. -/
def execSloAbx (s : State) : Result := runInstr (seqAbsIdxRmw .x .slo) s

/-- 0x23 `RLA*` IZX (R352), sequence R197. -/
def execRlaIzx (s : State) : Result := runInstr (seqIzxRmw .rla) s

/-- 0x27 `RLA*` ZP (R352), sequence R184. -/
def execRlaZp (s : State) : Result := runInstr (seqZpRmw .rla) s

/-- 0x2F `RLA*` ABS (R352), sequence R190. -/
def execRlaAbs (s : State) : Result := runInstr (seqAbsRmw .rla) s

/-- 0x33 `RLA*` IZY (R352), sequence R200. -/
def execRlaIzy (s : State) : Result := runInstr (seqIzyRmw .rla) s

/-- 0x37 `RLA*` ZPX (R352), sequence R187. -/
def execRlaZpx (s : State) : Result := runInstr (seqZpIdxRmw .x .rla) s

/-- 0x3B `RLA*` ABY (R352), sequence R194. -/
def execRlaAby (s : State) : Result := runInstr (seqAbsIdxRmw .y .rla) s

/-- 0x3F `RLA*` ABX (R352), sequence R194. -/
def execRlaAbx (s : State) : Result := runInstr (seqAbsIdxRmw .x .rla) s

/-- 0x43 `SRE*` IZX (R353), sequence R197. -/
def execSreIzx (s : State) : Result := runInstr (seqIzxRmw .sre) s

/-- 0x47 `SRE*` ZP (R353), sequence R184. -/
def execSreZp (s : State) : Result := runInstr (seqZpRmw .sre) s

/-- 0x4F `SRE*` ABS (R353), sequence R190. -/
def execSreAbs (s : State) : Result := runInstr (seqAbsRmw .sre) s

/-- 0x53 `SRE*` IZY (R353), sequence R200. -/
def execSreIzy (s : State) : Result := runInstr (seqIzyRmw .sre) s

/-- 0x57 `SRE*` ZPX (R353), sequence R187. -/
def execSreZpx (s : State) : Result := runInstr (seqZpIdxRmw .x .sre) s

/-- 0x5B `SRE*` ABY (R353), sequence R194. -/
def execSreAby (s : State) : Result := runInstr (seqAbsIdxRmw .y .sre) s

/-- 0x5F `SRE*` ABX (R353), sequence R194. -/
def execSreAbx (s : State) : Result := runInstr (seqAbsIdxRmw .x .sre) s

/-- 0x63 `RRA*` IZX (R354), sequence R197. -/
def execRraIzx (s : State) : Result := runInstr (seqIzxRmw .rra) s

/-- 0x67 `RRA*` ZP (R354), sequence R184. -/
def execRraZp (s : State) : Result := runInstr (seqZpRmw .rra) s

/-- 0x6F `RRA*` ABS (R354), sequence R190. -/
def execRraAbs (s : State) : Result := runInstr (seqAbsRmw .rra) s

/-- 0x73 `RRA*` IZY (R354), sequence R200. -/
def execRraIzy (s : State) : Result := runInstr (seqIzyRmw .rra) s

/-- 0x77 `RRA*` ZPX (R354), sequence R187. -/
def execRraZpx (s : State) : Result := runInstr (seqZpIdxRmw .x .rra) s

/-- 0x7B `RRA*` ABY (R354), sequence R194. -/
def execRraAby (s : State) : Result := runInstr (seqAbsIdxRmw .y .rra) s

/-- 0x7F `RRA*` ABX (R354), sequence R194. -/
def execRraAbx (s : State) : Result := runInstr (seqAbsIdxRmw .x .rra) s

/-- 0x83 `SAX*` IZX (R355), sequence R196. -/
def execSaxIzx (s : State) : Result := runInstr (seqIzxWrite .sax) s

/-- 0x87 `SAX*` ZP (R355), sequence R183. -/
def execSaxZp (s : State) : Result := runInstr (seqZpWrite .sax) s

/-- 0x8F `SAX*` ABS (R355), sequence R189. -/
def execSaxAbs (s : State) : Result := runInstr (seqAbsWrite .sax) s

/-- 0x97 `SAX*` ZPY (R355), sequence R186. -/
def execSaxZpy (s : State) : Result := runInstr (seqZpIdxWrite .y .sax) s

/-- 0xA3 `LAX*` IZX (R356), sequence R195. -/
def execLaxIzx (s : State) : Result := runInstr (seqIzxRead .lax) s

/-- 0xA7 `LAX*` ZP (R356), sequence R182. -/
def execLaxZp (s : State) : Result := runInstr (seqZpRead .lax) s

/-- 0xAF `LAX*` ABS (R356), sequence R188. -/
def execLaxAbs (s : State) : Result := runInstr (seqAbsRead .lax) s

/-- 0xB3 `LAX*` IZY (R356), sequence R198. -/
def execLaxIzy (s : State) : Result := runInstr (seqIzyRead .lax) s

/-- 0xB7 `LAX*` ZPY (R356), sequence R185. -/
def execLaxZpy (s : State) : Result := runInstr (seqZpIdxRead .y .lax) s

/-- 0xBF `LAX*` ABY (R356), sequence R192. -/
def execLaxAby (s : State) : Result := runInstr (seqAbsIdxRead .y .lax) s

/-- 0xC3 `DCP*` IZX (R357), sequence R197. -/
def execDcpIzx (s : State) : Result := runInstr (seqIzxRmw .dcp) s

/-- 0xC7 `DCP*` ZP (R357), sequence R184. -/
def execDcpZp (s : State) : Result := runInstr (seqZpRmw .dcp) s

/-- 0xCF `DCP*` ABS (R357), sequence R190. -/
def execDcpAbs (s : State) : Result := runInstr (seqAbsRmw .dcp) s

/-- 0xD3 `DCP*` IZY (R357), sequence R200. -/
def execDcpIzy (s : State) : Result := runInstr (seqIzyRmw .dcp) s

/-- 0xD7 `DCP*` ZPX (R357), sequence R187. -/
def execDcpZpx (s : State) : Result := runInstr (seqZpIdxRmw .x .dcp) s

/-- 0xDB `DCP*` ABY (R357), sequence R194. -/
def execDcpAby (s : State) : Result := runInstr (seqAbsIdxRmw .y .dcp) s

/-- 0xDF `DCP*` ABX (R357), sequence R194. -/
def execDcpAbx (s : State) : Result := runInstr (seqAbsIdxRmw .x .dcp) s

/-- 0xE3 `ISC*` IZX (R358), sequence R197. -/
def execIscIzx (s : State) : Result := runInstr (seqIzxRmw .isc) s

/-- 0xE7 `ISC*` ZP (R358), sequence R184. -/
def execIscZp (s : State) : Result := runInstr (seqZpRmw .isc) s

/-- 0xEF `ISC*` ABS (R358), sequence R190. -/
def execIscAbs (s : State) : Result := runInstr (seqAbsRmw .isc) s

/-- 0xF3 `ISC*` IZY (R358), sequence R200. -/
def execIscIzy (s : State) : Result := runInstr (seqIzyRmw .isc) s

/-- 0xF7 `ISC*` ZPX (R358), sequence R187. -/
def execIscZpx (s : State) : Result := runInstr (seqZpIdxRmw .x .isc) s

/-- 0xFB `ISC*` ABY (R358), sequence R194. -/
def execIscAby (s : State) : Result := runInstr (seqAbsIdxRmw .y .isc) s

/-- 0xFF `ISC*` ABX (R358), sequence R194. -/
def execIscAbx (s : State) : Result := runInstr (seqAbsIdxRmw .x .isc) s

/-- 0x0B `ANC*` IMM (R359), sequence R181. -/
def execAncImm0B (s : State) : Result := runInstr (seqImm .anc) s

/-- 0x2B `ANC*` IMM (R359), sequence R181. -/
def execAncImm2B (s : State) : Result := runInstr (seqImm .anc) s

/-- 0x4B `ALR*` IMM (R360), sequence R181. -/
def execAlrImm (s : State) : Result := runInstr (seqImm .alr) s

/-- 0x6B `ARR*` IMM (R361), sequence R181. -/
def execArrImm (s : State) : Result := runInstr (seqImm .arr) s

/-- 0xCB `AXS*` IMM (R362), sequence R181. -/
def execAxsImm (s : State) : Result := runInstr (seqImm .axs) s

/-- 0xBB `LAS*` ABY (R363), sequence R192. -/
def execLasAby (s : State) : Result := runInstr (seqAbsIdxRead .y .las) s

/-- 0xEB `SBC*` IMM (R364), sequence R181. -/
def execSbcImmEB (s : State) : Result := runInstr (seqImm .sbc) s

/-- 0x1A `NOP*` IMP (R365), sequence R180. -/
def execNopImp1A (s : State) : Result := runInstr (seqImp .nop) s

/-- 0x3A `NOP*` IMP (R365), sequence R180. -/
def execNopImp3A (s : State) : Result := runInstr (seqImp .nop) s

/-- 0x5A `NOP*` IMP (R365), sequence R180. -/
def execNopImp5A (s : State) : Result := runInstr (seqImp .nop) s

/-- 0x7A `NOP*` IMP (R365), sequence R180. -/
def execNopImp7A (s : State) : Result := runInstr (seqImp .nop) s

/-- 0xDA `NOP*` IMP (R365), sequence R180. -/
def execNopImpDA (s : State) : Result := runInstr (seqImp .nop) s

/-- 0xFA `NOP*` IMP (R365), sequence R180. -/
def execNopImpFA (s : State) : Result := runInstr (seqImp .nop) s

/-- 0x80 `NOP*` IMM (R366), sequence R181. -/
def execNopImm80 (s : State) : Result := runInstr (seqImm .nop) s

/-- 0x82 `NOP*` IMM (R366), sequence R181. -/
def execNopImm82 (s : State) : Result := runInstr (seqImm .nop) s

/-- 0x89 `NOP*` IMM (R366), sequence R181. -/
def execNopImm89 (s : State) : Result := runInstr (seqImm .nop) s

/-- 0xC2 `NOP*` IMM (R366), sequence R181. -/
def execNopImmC2 (s : State) : Result := runInstr (seqImm .nop) s

/-- 0xE2 `NOP*` IMM (R366), sequence R181. -/
def execNopImmE2 (s : State) : Result := runInstr (seqImm .nop) s

/-- 0x04 `NOP*` ZP (R367), sequence R182. -/
def execNopZp04 (s : State) : Result := runInstr (seqZpRead .nop) s

/-- 0x0C `NOP*` ABS (R367), sequence R188. -/
def execNopAbs (s : State) : Result := runInstr (seqAbsRead .nop) s

/-- 0x14 `NOP*` ZPX (R367), sequence R185. -/
def execNopZpx14 (s : State) : Result := runInstr (seqZpIdxRead .x .nop) s

/-- 0x1C `NOP*` ABX (R367), sequence R192. -/
def execNopAbx1C (s : State) : Result := runInstr (seqAbsIdxRead .x .nop) s

/-- 0x34 `NOP*` ZPX (R367), sequence R185. -/
def execNopZpx34 (s : State) : Result := runInstr (seqZpIdxRead .x .nop) s

/-- 0x3C `NOP*` ABX (R367), sequence R192. -/
def execNopAbx3C (s : State) : Result := runInstr (seqAbsIdxRead .x .nop) s

/-- 0x44 `NOP*` ZP (R367), sequence R182. -/
def execNopZp44 (s : State) : Result := runInstr (seqZpRead .nop) s

/-- 0x54 `NOP*` ZPX (R367), sequence R185. -/
def execNopZpx54 (s : State) : Result := runInstr (seqZpIdxRead .x .nop) s

/-- 0x5C `NOP*` ABX (R367), sequence R192. -/
def execNopAbx5C (s : State) : Result := runInstr (seqAbsIdxRead .x .nop) s

/-- 0x64 `NOP*` ZP (R367), sequence R182. -/
def execNopZp64 (s : State) : Result := runInstr (seqZpRead .nop) s

/-- 0x74 `NOP*` ZPX (R367), sequence R185. -/
def execNopZpx74 (s : State) : Result := runInstr (seqZpIdxRead .x .nop) s

/-- 0x7C `NOP*` ABX (R367), sequence R192. -/
def execNopAbx7C (s : State) : Result := runInstr (seqAbsIdxRead .x .nop) s

/-- 0xD4 `NOP*` ZPX (R367), sequence R185. -/
def execNopZpxD4 (s : State) : Result := runInstr (seqZpIdxRead .x .nop) s

/-- 0xDC `NOP*` ABX (R367), sequence R192. -/
def execNopAbxDC (s : State) : Result := runInstr (seqAbsIdxRead .x .nop) s

/-- 0xF4 `NOP*` ZPX (R367), sequence R185. -/
def execNopZpxF4 (s : State) : Result := runInstr (seqZpIdxRead .x .nop) s

/-- 0xFC `NOP*` ABX (R367), sequence R192. -/
def execNopAbxFC (s : State) : Result := runInstr (seqAbsIdxRead .x .nop) s

/-- 0x02 `UNK*` IMP (R368), sequence R180. -/
def execUnk02 (s : State) : Result := runInstr (seqImp .unk) s

/-- 0x12 `UNK*` IMP (R368), sequence R180. -/
def execUnk12 (s : State) : Result := runInstr (seqImp .unk) s

/-- 0x22 `UNK*` IMP (R368), sequence R180. -/
def execUnk22 (s : State) : Result := runInstr (seqImp .unk) s

/-- 0x32 `UNK*` IMP (R368), sequence R180. -/
def execUnk32 (s : State) : Result := runInstr (seqImp .unk) s

/-- 0x42 `UNK*` IMP (R368), sequence R180. -/
def execUnk42 (s : State) : Result := runInstr (seqImp .unk) s

/-- 0x52 `UNK*` IMP (R368), sequence R180. -/
def execUnk52 (s : State) : Result := runInstr (seqImp .unk) s

/-- 0x62 `UNK*` IMP (R368), sequence R180. -/
def execUnk62 (s : State) : Result := runInstr (seqImp .unk) s

/-- 0x72 `UNK*` IMP (R368), sequence R180. -/
def execUnk72 (s : State) : Result := runInstr (seqImp .unk) s

/-- 0x8B `UNK*` IMP (R368), sequence R180. -/
def execUnk8B (s : State) : Result := runInstr (seqImp .unk) s

/-- 0x92 `UNK*` IMP (R368), sequence R180. -/
def execUnk92 (s : State) : Result := runInstr (seqImp .unk) s

/-- 0x93 `UNK*` IMP (R368), sequence R180. -/
def execUnk93 (s : State) : Result := runInstr (seqImp .unk) s

/-- 0x9B `UNK*` IMP (R368), sequence R180. -/
def execUnk9B (s : State) : Result := runInstr (seqImp .unk) s

/-- 0x9C `UNK*` IMP (R368), sequence R180. -/
def execUnk9C (s : State) : Result := runInstr (seqImp .unk) s

/-- 0x9E `UNK*` IMP (R368), sequence R180. -/
def execUnk9E (s : State) : Result := runInstr (seqImp .unk) s

/-- 0x9F `UNK*` IMP (R368), sequence R180. -/
def execUnk9F (s : State) : Result := runInstr (seqImp .unk) s

/-- 0xAB `UNK*` IMP (R368), sequence R180. -/
def execUnkAB (s : State) : Result := runInstr (seqImp .unk) s

/-- 0xB2 `UNK*` IMP (R368), sequence R180. -/
def execUnkB2 (s : State) : Result := runInstr (seqImp .unk) s

/-- 0xD2 `UNK*` IMP (R368), sequence R180. -/
def execUnkD2 (s : State) : Result := runInstr (seqImp .unk) s

/-- 0xF2 `UNK*` IMP (R368), sequence R180. -/
def execUnkF2 (s : State) : Result := runInstr (seqImp .unk) s

end Sys2Proof.Machine
end

