-- ==== Sys2Proof/Syntax.lean ====
section
/-! DEFINITION. The instructions of SEQ: one constructor for each of the 256 rows of spec/opcode_table.json
(30_encoding.md R96), in opcode order.

A constructor carries no operand. The opcode byte alone selects the instruction (R90, R173), and an operand byte is read
from memory by the micro-operation of the cycle that needs it (R74, R176): a `JSR` fetches its third byte after its two
pushes, which may have overwritten it (R311). `Sys2Proof.Asm` of Decode.lean pairs an instruction with its operand bytes.
DEDUCED (log entry 9). -/

namespace Sys2Proof

/-- The 256 rows of R96. The name is the mnemonic and the format; where several rows share both, the opcode follows. -/
inductive Instr where
  /-- 0x00: `BRK` IMP, R314. -/
  | brk
  /-- 0x01: `ORA` IZX, R266. -/
  | oraIzx
  /-- 0x02: `UNK*` IMP, R368. -/
  | unk02
  /-- 0x03: `SLO*` IZX, R351. -/
  | sloIzx
  /-- 0x04: `NOP*` ZP, R367. -/
  | nopZp04
  /-- 0x05: `ORA` ZP, R266. -/
  | oraZp
  /-- 0x06: `ASL` ZP, R278. -/
  | aslZp
  /-- 0x07: `SLO*` ZP, R351. -/
  | sloZp
  /-- 0x08: `PHP` IMP, R317. -/
  | php
  /-- 0x09: `ORA` IMM, R266. -/
  | oraImm
  /-- 0x0A: `ASL` ACC, R278. -/
  | aslAcc
  /-- 0x0B: `ANC*` IMM, R359. -/
  | ancImm0B
  /-- 0x0C: `NOP*` ABS, R367. -/
  | nopAbs
  /-- 0x0D: `ORA` ABS, R266. -/
  | oraAbs
  /-- 0x0E: `ASL` ABS, R278. -/
  | aslAbs
  /-- 0x0F: `SLO*` ABS, R351. -/
  | sloAbs
  /-- 0x10: `BPL` REL, R300. -/
  | bpl
  /-- 0x11: `ORA` IZY, R266. -/
  | oraIzy
  /-- 0x12: `UNK*` IMP, R368. -/
  | unk12
  /-- 0x13: `SLO*` IZY, R351. -/
  | sloIzy
  /-- 0x14: `NOP*` ZPX, R367. -/
  | nopZpx14
  /-- 0x15: `ORA` ZPX, R266. -/
  | oraZpx
  /-- 0x16: `ASL` ZPX, R278. -/
  | aslZpx
  /-- 0x17: `SLO*` ZPX, R351. -/
  | sloZpx
  /-- 0x18: `CLC` IMP, R320. -/
  | clc
  /-- 0x19: `ORA` ABY, R266. -/
  | oraAby
  /-- 0x1A: `NOP*` IMP, R365. -/
  | nopImp1A
  /-- 0x1B: `SLO*` ABY, R351. -/
  | sloAby
  /-- 0x1C: `NOP*` ABX, R367. -/
  | nopAbx1C
  /-- 0x1D: `ORA` ABX, R266. -/
  | oraAbx
  /-- 0x1E: `ASL` ABX, R278. -/
  | aslAbx
  /-- 0x1F: `SLO*` ABX, R351. -/
  | sloAbx
  /-- 0x20: `JSR` ABS, R311. -/
  | jsr
  /-- 0x21: `AND` IZX, R265. -/
  | andIzx
  /-- 0x22: `UNK*` IMP, R368. -/
  | unk22
  /-- 0x23: `RLA*` IZX, R352. -/
  | rlaIzx
  /-- 0x24: `BIT` ZP, R268. -/
  | bitZp
  /-- 0x25: `AND` ZP, R265. -/
  | andZp
  /-- 0x26: `ROL` ZP, R280. -/
  | rolZp
  /-- 0x27: `RLA*` ZP, R352. -/
  | rlaZp
  /-- 0x28: `PLP` IMP, R319. -/
  | plp
  /-- 0x29: `AND` IMM, R265. -/
  | andImm
  /-- 0x2A: `ROL` ACC, R280. -/
  | rolAcc
  /-- 0x2B: `ANC*` IMM, R359. -/
  | ancImm2B
  /-- 0x2C: `BIT` ABS, R268. -/
  | bitAbs
  /-- 0x2D: `AND` ABS, R265. -/
  | andAbs
  /-- 0x2E: `ROL` ABS, R280. -/
  | rolAbs
  /-- 0x2F: `RLA*` ABS, R352. -/
  | rlaAbs
  /-- 0x30: `BMI` REL, R301. -/
  | bmi
  /-- 0x31: `AND` IZY, R265. -/
  | andIzy
  /-- 0x32: `UNK*` IMP, R368. -/
  | unk32
  /-- 0x33: `RLA*` IZY, R352. -/
  | rlaIzy
  /-- 0x34: `NOP*` ZPX, R367. -/
  | nopZpx34
  /-- 0x35: `AND` ZPX, R265. -/
  | andZpx
  /-- 0x36: `ROL` ZPX, R280. -/
  | rolZpx
  /-- 0x37: `RLA*` ZPX, R352. -/
  | rlaZpx
  /-- 0x38: `SEC` IMP, R321. -/
  | sec
  /-- 0x39: `AND` ABY, R265. -/
  | andAby
  /-- 0x3A: `NOP*` IMP, R365. -/
  | nopImp3A
  /-- 0x3B: `RLA*` ABY, R352. -/
  | rlaAby
  /-- 0x3C: `NOP*` ABX, R367. -/
  | nopAbx3C
  /-- 0x3D: `AND` ABX, R265. -/
  | andAbx
  /-- 0x3E: `ROL` ABX, R280. -/
  | rolAbx
  /-- 0x3F: `RLA*` ABX, R352. -/
  | rlaAbx
  /-- 0x40: `RTI` IMP, R313. -/
  | rti
  /-- 0x41: `EOR` IZX, R267. -/
  | eorIzx
  /-- 0x42: `UNK*` IMP, R368. -/
  | unk42
  /-- 0x43: `SRE*` IZX, R353. -/
  | sreIzx
  /-- 0x44: `NOP*` ZP, R367. -/
  | nopZp44
  /-- 0x45: `EOR` ZP, R267. -/
  | eorZp
  /-- 0x46: `LSR` ZP, R279. -/
  | lsrZp
  /-- 0x47: `SRE*` ZP, R353. -/
  | sreZp
  /-- 0x48: `PHA` IMP, R316. -/
  | pha
  /-- 0x49: `EOR` IMM, R267. -/
  | eorImm
  /-- 0x4A: `LSR` ACC, R279. -/
  | lsrAcc
  /-- 0x4B: `ALR*` IMM, R360. -/
  | alrImm
  /-- 0x4C: `JMP` ABS, R309. -/
  | jmpAbs
  /-- 0x4D: `EOR` ABS, R267. -/
  | eorAbs
  /-- 0x4E: `LSR` ABS, R279. -/
  | lsrAbs
  /-- 0x4F: `SRE*` ABS, R353. -/
  | sreAbs
  /-- 0x50: `BVC` REL, R302. -/
  | bvc
  /-- 0x51: `EOR` IZY, R267. -/
  | eorIzy
  /-- 0x52: `UNK*` IMP, R368. -/
  | unk52
  /-- 0x53: `SRE*` IZY, R353. -/
  | sreIzy
  /-- 0x54: `NOP*` ZPX, R367. -/
  | nopZpx54
  /-- 0x55: `EOR` ZPX, R267. -/
  | eorZpx
  /-- 0x56: `LSR` ZPX, R279. -/
  | lsrZpx
  /-- 0x57: `SRE*` ZPX, R353. -/
  | sreZpx
  /-- 0x58: `CLI` IMP, R322. -/
  | cli
  /-- 0x59: `EOR` ABY, R267. -/
  | eorAby
  /-- 0x5A: `NOP*` IMP, R365. -/
  | nopImp5A
  /-- 0x5B: `SRE*` ABY, R353. -/
  | sreAby
  /-- 0x5C: `NOP*` ABX, R367. -/
  | nopAbx5C
  /-- 0x5D: `EOR` ABX, R267. -/
  | eorAbx
  /-- 0x5E: `LSR` ABX, R279. -/
  | lsrAbx
  /-- 0x5F: `SRE*` ABX, R353. -/
  | sreAbx
  /-- 0x60: `RTS` IMP, R312. -/
  | rts
  /-- 0x61: `ADC` IZX, R263. -/
  | adcIzx
  /-- 0x62: `UNK*` IMP, R368. -/
  | unk62
  /-- 0x63: `RRA*` IZX, R354. -/
  | rraIzx
  /-- 0x64: `NOP*` ZP, R367. -/
  | nopZp64
  /-- 0x65: `ADC` ZP, R263. -/
  | adcZp
  /-- 0x66: `ROR` ZP, R281. -/
  | rorZp
  /-- 0x67: `RRA*` ZP, R354. -/
  | rraZp
  /-- 0x68: `PLA` IMP, R318. -/
  | pla
  /-- 0x69: `ADC` IMM, R263. -/
  | adcImm
  /-- 0x6A: `ROR` ACC, R281. -/
  | rorAcc
  /-- 0x6B: `ARR*` IMM, R361. -/
  | arrImm
  /-- 0x6C: `JMP` IND, R310. -/
  | jmpInd
  /-- 0x6D: `ADC` ABS, R263. -/
  | adcAbs
  /-- 0x6E: `ROR` ABS, R281. -/
  | rorAbs
  /-- 0x6F: `RRA*` ABS, R354. -/
  | rraAbs
  /-- 0x70: `BVS` REL, R303. -/
  | bvs
  /-- 0x71: `ADC` IZY, R263. -/
  | adcIzy
  /-- 0x72: `UNK*` IMP, R368. -/
  | unk72
  /-- 0x73: `RRA*` IZY, R354. -/
  | rraIzy
  /-- 0x74: `NOP*` ZPX, R367. -/
  | nopZpx74
  /-- 0x75: `ADC` ZPX, R263. -/
  | adcZpx
  /-- 0x76: `ROR` ZPX, R281. -/
  | rorZpx
  /-- 0x77: `RRA*` ZPX, R354. -/
  | rraZpx
  /-- 0x78: `SEI` IMP, R323. -/
  | sei
  /-- 0x79: `ADC` ABY, R263. -/
  | adcAby
  /-- 0x7A: `NOP*` IMP, R365. -/
  | nopImp7A
  /-- 0x7B: `RRA*` ABY, R354. -/
  | rraAby
  /-- 0x7C: `NOP*` ABX, R367. -/
  | nopAbx7C
  /-- 0x7D: `ADC` ABX, R263. -/
  | adcAbx
  /-- 0x7E: `ROR` ABX, R281. -/
  | rorAbx
  /-- 0x7F: `RRA*` ABX, R354. -/
  | rraAbx
  /-- 0x80: `NOP*` IMM, R366. -/
  | nopImm80
  /-- 0x81: `STA` IZX, R233. -/
  | staIzx
  /-- 0x82: `NOP*` IMM, R366. -/
  | nopImm82
  /-- 0x83: `SAX*` IZX, R355. -/
  | saxIzx
  /-- 0x84: `STY` ZP, R235. -/
  | styZp
  /-- 0x85: `STA` ZP, R233. -/
  | staZp
  /-- 0x86: `STX` ZP, R234. -/
  | stxZp
  /-- 0x87: `SAX*` ZP, R355. -/
  | saxZp
  /-- 0x88: `DEY` IMP, R277. -/
  | dey
  /-- 0x89: `NOP*` IMM, R366. -/
  | nopImm89
  /-- 0x8A: `TXA` IMP, R238. -/
  | txa
  /-- 0x8B: `UNK*` IMP, R368. -/
  | unk8B
  /-- 0x8C: `STY` ABS, R235. -/
  | styAbs
  /-- 0x8D: `STA` ABS, R233. -/
  | staAbs
  /-- 0x8E: `STX` ABS, R234. -/
  | stxAbs
  /-- 0x8F: `SAX*` ABS, R355. -/
  | saxAbs
  /-- 0x90: `BCC` REL, R304. -/
  | bcc
  /-- 0x91: `STA` IZY, R233. -/
  | staIzy
  /-- 0x92: `UNK*` IMP, R368. -/
  | unk92
  /-- 0x93: `UNK*` IMP, R368. -/
  | unk93
  /-- 0x94: `STY` ZPX, R235. -/
  | styZpx
  /-- 0x95: `STA` ZPX, R233. -/
  | staZpx
  /-- 0x96: `STX` ZPY, R234. -/
  | stxZpy
  /-- 0x97: `SAX*` ZPY, R355. -/
  | saxZpy
  /-- 0x98: `TYA` IMP, R239. -/
  | tya
  /-- 0x99: `STA` ABY, R233. -/
  | staAby
  /-- 0x9A: `TXS` IMP, R241. -/
  | txs
  /-- 0x9B: `UNK*` IMP, R368. -/
  | unk9B
  /-- 0x9C: `UNK*` IMP, R368. -/
  | unk9C
  /-- 0x9D: `STA` ABX, R233. -/
  | staAbx
  /-- 0x9E: `UNK*` IMP, R368. -/
  | unk9E
  /-- 0x9F: `UNK*` IMP, R368. -/
  | unk9F
  /-- 0xA0: `LDY` IMM, R232. -/
  | ldyImm
  /-- 0xA1: `LDA` IZX, R230. -/
  | ldaIzx
  /-- 0xA2: `LDX` IMM, R231. -/
  | ldxImm
  /-- 0xA3: `LAX*` IZX, R356. -/
  | laxIzx
  /-- 0xA4: `LDY` ZP, R232. -/
  | ldyZp
  /-- 0xA5: `LDA` ZP, R230. -/
  | ldaZp
  /-- 0xA6: `LDX` ZP, R231. -/
  | ldxZp
  /-- 0xA7: `LAX*` ZP, R356. -/
  | laxZp
  /-- 0xA8: `TAY` IMP, R237. -/
  | tay
  /-- 0xA9: `LDA` IMM, R230. -/
  | ldaImm
  /-- 0xAA: `TAX` IMP, R236. -/
  | tax
  /-- 0xAB: `UNK*` IMP, R368. -/
  | unkAB
  /-- 0xAC: `LDY` ABS, R232. -/
  | ldyAbs
  /-- 0xAD: `LDA` ABS, R230. -/
  | ldaAbs
  /-- 0xAE: `LDX` ABS, R231. -/
  | ldxAbs
  /-- 0xAF: `LAX*` ABS, R356. -/
  | laxAbs
  /-- 0xB0: `BCS` REL, R305. -/
  | bcs
  /-- 0xB1: `LDA` IZY, R230. -/
  | ldaIzy
  /-- 0xB2: `UNK*` IMP, R368. -/
  | unkB2
  /-- 0xB3: `LAX*` IZY, R356. -/
  | laxIzy
  /-- 0xB4: `LDY` ZPX, R232. -/
  | ldyZpx
  /-- 0xB5: `LDA` ZPX, R230. -/
  | ldaZpx
  /-- 0xB6: `LDX` ZPY, R231. -/
  | ldxZpy
  /-- 0xB7: `LAX*` ZPY, R356. -/
  | laxZpy
  /-- 0xB8: `CLV` IMP, R324. -/
  | clv
  /-- 0xB9: `LDA` ABY, R230. -/
  | ldaAby
  /-- 0xBA: `TSX` IMP, R240. -/
  | tsx
  /-- 0xBB: `LAS*` ABY, R363. -/
  | lasAby
  /-- 0xBC: `LDY` ABX, R232. -/
  | ldyAbx
  /-- 0xBD: `LDA` ABX, R230. -/
  | ldaAbx
  /-- 0xBE: `LDX` ABY, R231. -/
  | ldxAby
  /-- 0xBF: `LAX*` ABY, R356. -/
  | laxAby
  /-- 0xC0: `CPY` IMM, R271. -/
  | cpyImm
  /-- 0xC1: `CMP` IZX, R269. -/
  | cmpIzx
  /-- 0xC2: `NOP*` IMM, R366. -/
  | nopImmC2
  /-- 0xC3: `DCP*` IZX, R357. -/
  | dcpIzx
  /-- 0xC4: `CPY` ZP, R271. -/
  | cpyZp
  /-- 0xC5: `CMP` ZP, R269. -/
  | cmpZp
  /-- 0xC6: `DEC` ZP, R273. -/
  | decZp
  /-- 0xC7: `DCP*` ZP, R357. -/
  | dcpZp
  /-- 0xC8: `INY` IMP, R275. -/
  | iny
  /-- 0xC9: `CMP` IMM, R269. -/
  | cmpImm
  /-- 0xCA: `DEX` IMP, R276. -/
  | dex
  /-- 0xCB: `AXS*` IMM, R362. -/
  | axsImm
  /-- 0xCC: `CPY` ABS, R271. -/
  | cpyAbs
  /-- 0xCD: `CMP` ABS, R269. -/
  | cmpAbs
  /-- 0xCE: `DEC` ABS, R273. -/
  | decAbs
  /-- 0xCF: `DCP*` ABS, R357. -/
  | dcpAbs
  /-- 0xD0: `BNE` REL, R306. -/
  | bne
  /-- 0xD1: `CMP` IZY, R269. -/
  | cmpIzy
  /-- 0xD2: `UNK*` IMP, R368. -/
  | unkD2
  /-- 0xD3: `DCP*` IZY, R357. -/
  | dcpIzy
  /-- 0xD4: `NOP*` ZPX, R367. -/
  | nopZpxD4
  /-- 0xD5: `CMP` ZPX, R269. -/
  | cmpZpx
  /-- 0xD6: `DEC` ZPX, R273. -/
  | decZpx
  /-- 0xD7: `DCP*` ZPX, R357. -/
  | dcpZpx
  /-- 0xD8: `CLD` IMP, R325. -/
  | cld
  /-- 0xD9: `CMP` ABY, R269. -/
  | cmpAby
  /-- 0xDA: `NOP*` IMP, R365. -/
  | nopImpDA
  /-- 0xDB: `DCP*` ABY, R357. -/
  | dcpAby
  /-- 0xDC: `NOP*` ABX, R367. -/
  | nopAbxDC
  /-- 0xDD: `CMP` ABX, R269. -/
  | cmpAbx
  /-- 0xDE: `DEC` ABX, R273. -/
  | decAbx
  /-- 0xDF: `DCP*` ABX, R357. -/
  | dcpAbx
  /-- 0xE0: `CPX` IMM, R270. -/
  | cpxImm
  /-- 0xE1: `SBC` IZX, R264. -/
  | sbcIzx
  /-- 0xE2: `NOP*` IMM, R366. -/
  | nopImmE2
  /-- 0xE3: `ISC*` IZX, R358. -/
  | iscIzx
  /-- 0xE4: `CPX` ZP, R270. -/
  | cpxZp
  /-- 0xE5: `SBC` ZP, R264. -/
  | sbcZp
  /-- 0xE6: `INC` ZP, R272. -/
  | incZp
  /-- 0xE7: `ISC*` ZP, R358. -/
  | iscZp
  /-- 0xE8: `INX` IMP, R274. -/
  | inx
  /-- 0xE9: `SBC` IMM, R264. -/
  | sbcImm
  /-- 0xEA: `NOP` IMP, R315. -/
  | nop
  /-- 0xEB: `SBC*` IMM, R364. -/
  | sbcImmEB
  /-- 0xEC: `CPX` ABS, R270. -/
  | cpxAbs
  /-- 0xED: `SBC` ABS, R264. -/
  | sbcAbs
  /-- 0xEE: `INC` ABS, R272. -/
  | incAbs
  /-- 0xEF: `ISC*` ABS, R358. -/
  | iscAbs
  /-- 0xF0: `BEQ` REL, R307. -/
  | beq
  /-- 0xF1: `SBC` IZY, R264. -/
  | sbcIzy
  /-- 0xF2: `UNK*` IMP, R368. -/
  | unkF2
  /-- 0xF3: `ISC*` IZY, R358. -/
  | iscIzy
  /-- 0xF4: `NOP*` ZPX, R367. -/
  | nopZpxF4
  /-- 0xF5: `SBC` ZPX, R264. -/
  | sbcZpx
  /-- 0xF6: `INC` ZPX, R272. -/
  | incZpx
  /-- 0xF7: `ISC*` ZPX, R358. -/
  | iscZpx
  /-- 0xF8: `SED` IMP, R326. -/
  | sed
  /-- 0xF9: `SBC` ABY, R264. -/
  | sbcAby
  /-- 0xFA: `NOP*` IMP, R365. -/
  | nopImpFA
  /-- 0xFB: `ISC*` ABY, R358. -/
  | iscAby
  /-- 0xFC: `NOP*` ABX, R367. -/
  | nopAbxFC
  /-- 0xFD: `SBC` ABX, R264. -/
  | sbcAbx
  /-- 0xFE: `INC` ABX, R272. -/
  | incAbx
  /-- 0xFF: `ISC*` ABX, R358. -/
  | iscAbx
  deriving DecidableEq, Repr

end Sys2Proof
end

