-- ==== Sys2Proof/Machine/Dispatch.lean ====
section
/-! DEFINITION. One arm for each row of the opcode table (30_encoding.md R96), in opcode order. -/

namespace Sys2Proof.Machine

def exec (i : Instr) (s : State) : Host.Outcome State Fault Refusal :=
  match i with
  | .brk => Sys2Proof.Machine.execBrk s
  | .oraIzx => Sys2Proof.Machine.execOraIzx s
  | .unk02 => Sys2Proof.Machine.execUnk02 s
  | .sloIzx => Sys2Proof.Machine.execSloIzx s
  | .nopZp04 => Sys2Proof.Machine.execNopZp04 s
  | .oraZp => Sys2Proof.Machine.execOraZp s
  | .aslZp => Sys2Proof.Machine.execAslZp s
  | .sloZp => Sys2Proof.Machine.execSloZp s
  | .php => Sys2Proof.Machine.execPhp s
  | .oraImm => Sys2Proof.Machine.execOraImm s
  | .aslAcc => Sys2Proof.Machine.execAslAcc s
  | .ancImm0B => Sys2Proof.Machine.execAncImm0B s
  | .nopAbs => Sys2Proof.Machine.execNopAbs s
  | .oraAbs => Sys2Proof.Machine.execOraAbs s
  | .aslAbs => Sys2Proof.Machine.execAslAbs s
  | .sloAbs => Sys2Proof.Machine.execSloAbs s
  | .bpl => Sys2Proof.Machine.execBpl s
  | .oraIzy => Sys2Proof.Machine.execOraIzy s
  | .unk12 => Sys2Proof.Machine.execUnk12 s
  | .sloIzy => Sys2Proof.Machine.execSloIzy s
  | .nopZpx14 => Sys2Proof.Machine.execNopZpx14 s
  | .oraZpx => Sys2Proof.Machine.execOraZpx s
  | .aslZpx => Sys2Proof.Machine.execAslZpx s
  | .sloZpx => Sys2Proof.Machine.execSloZpx s
  | .clc => Sys2Proof.Machine.execClc s
  | .oraAby => Sys2Proof.Machine.execOraAby s
  | .nopImp1A => Sys2Proof.Machine.execNopImp1A s
  | .sloAby => Sys2Proof.Machine.execSloAby s
  | .nopAbx1C => Sys2Proof.Machine.execNopAbx1C s
  | .oraAbx => Sys2Proof.Machine.execOraAbx s
  | .aslAbx => Sys2Proof.Machine.execAslAbx s
  | .sloAbx => Sys2Proof.Machine.execSloAbx s
  | .jsr => Sys2Proof.Machine.execJsr s
  | .andIzx => Sys2Proof.Machine.execAndIzx s
  | .unk22 => Sys2Proof.Machine.execUnk22 s
  | .rlaIzx => Sys2Proof.Machine.execRlaIzx s
  | .bitZp => Sys2Proof.Machine.execBitZp s
  | .andZp => Sys2Proof.Machine.execAndZp s
  | .rolZp => Sys2Proof.Machine.execRolZp s
  | .rlaZp => Sys2Proof.Machine.execRlaZp s
  | .plp => Sys2Proof.Machine.execPlp s
  | .andImm => Sys2Proof.Machine.execAndImm s
  | .rolAcc => Sys2Proof.Machine.execRolAcc s
  | .ancImm2B => Sys2Proof.Machine.execAncImm2B s
  | .bitAbs => Sys2Proof.Machine.execBitAbs s
  | .andAbs => Sys2Proof.Machine.execAndAbs s
  | .rolAbs => Sys2Proof.Machine.execRolAbs s
  | .rlaAbs => Sys2Proof.Machine.execRlaAbs s
  | .bmi => Sys2Proof.Machine.execBmi s
  | .andIzy => Sys2Proof.Machine.execAndIzy s
  | .unk32 => Sys2Proof.Machine.execUnk32 s
  | .rlaIzy => Sys2Proof.Machine.execRlaIzy s
  | .nopZpx34 => Sys2Proof.Machine.execNopZpx34 s
  | .andZpx => Sys2Proof.Machine.execAndZpx s
  | .rolZpx => Sys2Proof.Machine.execRolZpx s
  | .rlaZpx => Sys2Proof.Machine.execRlaZpx s
  | .sec => Sys2Proof.Machine.execSec s
  | .andAby => Sys2Proof.Machine.execAndAby s
  | .nopImp3A => Sys2Proof.Machine.execNopImp3A s
  | .rlaAby => Sys2Proof.Machine.execRlaAby s
  | .nopAbx3C => Sys2Proof.Machine.execNopAbx3C s
  | .andAbx => Sys2Proof.Machine.execAndAbx s
  | .rolAbx => Sys2Proof.Machine.execRolAbx s
  | .rlaAbx => Sys2Proof.Machine.execRlaAbx s
  | .rti => Sys2Proof.Machine.execRti s
  | .eorIzx => Sys2Proof.Machine.execEorIzx s
  | .unk42 => Sys2Proof.Machine.execUnk42 s
  | .sreIzx => Sys2Proof.Machine.execSreIzx s
  | .nopZp44 => Sys2Proof.Machine.execNopZp44 s
  | .eorZp => Sys2Proof.Machine.execEorZp s
  | .lsrZp => Sys2Proof.Machine.execLsrZp s
  | .sreZp => Sys2Proof.Machine.execSreZp s
  | .pha => Sys2Proof.Machine.execPha s
  | .eorImm => Sys2Proof.Machine.execEorImm s
  | .lsrAcc => Sys2Proof.Machine.execLsrAcc s
  | .alrImm => Sys2Proof.Machine.execAlrImm s
  | .jmpAbs => Sys2Proof.Machine.execJmpAbs s
  | .eorAbs => Sys2Proof.Machine.execEorAbs s
  | .lsrAbs => Sys2Proof.Machine.execLsrAbs s
  | .sreAbs => Sys2Proof.Machine.execSreAbs s
  | .bvc => Sys2Proof.Machine.execBvc s
  | .eorIzy => Sys2Proof.Machine.execEorIzy s
  | .unk52 => Sys2Proof.Machine.execUnk52 s
  | .sreIzy => Sys2Proof.Machine.execSreIzy s
  | .nopZpx54 => Sys2Proof.Machine.execNopZpx54 s
  | .eorZpx => Sys2Proof.Machine.execEorZpx s
  | .lsrZpx => Sys2Proof.Machine.execLsrZpx s
  | .sreZpx => Sys2Proof.Machine.execSreZpx s
  | .cli => Sys2Proof.Machine.execCli s
  | .eorAby => Sys2Proof.Machine.execEorAby s
  | .nopImp5A => Sys2Proof.Machine.execNopImp5A s
  | .sreAby => Sys2Proof.Machine.execSreAby s
  | .nopAbx5C => Sys2Proof.Machine.execNopAbx5C s
  | .eorAbx => Sys2Proof.Machine.execEorAbx s
  | .lsrAbx => Sys2Proof.Machine.execLsrAbx s
  | .sreAbx => Sys2Proof.Machine.execSreAbx s
  | .rts => Sys2Proof.Machine.execRts s
  | .adcIzx => Sys2Proof.Machine.execAdcIzx s
  | .unk62 => Sys2Proof.Machine.execUnk62 s
  | .rraIzx => Sys2Proof.Machine.execRraIzx s
  | .nopZp64 => Sys2Proof.Machine.execNopZp64 s
  | .adcZp => Sys2Proof.Machine.execAdcZp s
  | .rorZp => Sys2Proof.Machine.execRorZp s
  | .rraZp => Sys2Proof.Machine.execRraZp s
  | .pla => Sys2Proof.Machine.execPla s
  | .adcImm => Sys2Proof.Machine.execAdcImm s
  | .rorAcc => Sys2Proof.Machine.execRorAcc s
  | .arrImm => Sys2Proof.Machine.execArrImm s
  | .jmpInd => Sys2Proof.Machine.execJmpInd s
  | .adcAbs => Sys2Proof.Machine.execAdcAbs s
  | .rorAbs => Sys2Proof.Machine.execRorAbs s
  | .rraAbs => Sys2Proof.Machine.execRraAbs s
  | .bvs => Sys2Proof.Machine.execBvs s
  | .adcIzy => Sys2Proof.Machine.execAdcIzy s
  | .unk72 => Sys2Proof.Machine.execUnk72 s
  | .rraIzy => Sys2Proof.Machine.execRraIzy s
  | .nopZpx74 => Sys2Proof.Machine.execNopZpx74 s
  | .adcZpx => Sys2Proof.Machine.execAdcZpx s
  | .rorZpx => Sys2Proof.Machine.execRorZpx s
  | .rraZpx => Sys2Proof.Machine.execRraZpx s
  | .sei => Sys2Proof.Machine.execSei s
  | .adcAby => Sys2Proof.Machine.execAdcAby s
  | .nopImp7A => Sys2Proof.Machine.execNopImp7A s
  | .rraAby => Sys2Proof.Machine.execRraAby s
  | .nopAbx7C => Sys2Proof.Machine.execNopAbx7C s
  | .adcAbx => Sys2Proof.Machine.execAdcAbx s
  | .rorAbx => Sys2Proof.Machine.execRorAbx s
  | .rraAbx => Sys2Proof.Machine.execRraAbx s
  | .nopImm80 => Sys2Proof.Machine.execNopImm80 s
  | .staIzx => Sys2Proof.Machine.execStaIzx s
  | .nopImm82 => Sys2Proof.Machine.execNopImm82 s
  | .saxIzx => Sys2Proof.Machine.execSaxIzx s
  | .styZp => Sys2Proof.Machine.execStyZp s
  | .staZp => Sys2Proof.Machine.execStaZp s
  | .stxZp => Sys2Proof.Machine.execStxZp s
  | .saxZp => Sys2Proof.Machine.execSaxZp s
  | .dey => Sys2Proof.Machine.execDey s
  | .nopImm89 => Sys2Proof.Machine.execNopImm89 s
  | .txa => Sys2Proof.Machine.execTxa s
  | .unk8B => Sys2Proof.Machine.execUnk8B s
  | .styAbs => Sys2Proof.Machine.execStyAbs s
  | .staAbs => Sys2Proof.Machine.execStaAbs s
  | .stxAbs => Sys2Proof.Machine.execStxAbs s
  | .saxAbs => Sys2Proof.Machine.execSaxAbs s
  | .bcc => Sys2Proof.Machine.execBcc s
  | .staIzy => Sys2Proof.Machine.execStaIzy s
  | .unk92 => Sys2Proof.Machine.execUnk92 s
  | .unk93 => Sys2Proof.Machine.execUnk93 s
  | .styZpx => Sys2Proof.Machine.execStyZpx s
  | .staZpx => Sys2Proof.Machine.execStaZpx s
  | .stxZpy => Sys2Proof.Machine.execStxZpy s
  | .saxZpy => Sys2Proof.Machine.execSaxZpy s
  | .tya => Sys2Proof.Machine.execTya s
  | .staAby => Sys2Proof.Machine.execStaAby s
  | .txs => Sys2Proof.Machine.execTxs s
  | .unk9B => Sys2Proof.Machine.execUnk9B s
  | .unk9C => Sys2Proof.Machine.execUnk9C s
  | .staAbx => Sys2Proof.Machine.execStaAbx s
  | .unk9E => Sys2Proof.Machine.execUnk9E s
  | .unk9F => Sys2Proof.Machine.execUnk9F s
  | .ldyImm => Sys2Proof.Machine.execLdyImm s
  | .ldaIzx => Sys2Proof.Machine.execLdaIzx s
  | .ldxImm => Sys2Proof.Machine.execLdxImm s
  | .laxIzx => Sys2Proof.Machine.execLaxIzx s
  | .ldyZp => Sys2Proof.Machine.execLdyZp s
  | .ldaZp => Sys2Proof.Machine.execLdaZp s
  | .ldxZp => Sys2Proof.Machine.execLdxZp s
  | .laxZp => Sys2Proof.Machine.execLaxZp s
  | .tay => Sys2Proof.Machine.execTay s
  | .ldaImm => Sys2Proof.Machine.execLdaImm s
  | .tax => Sys2Proof.Machine.execTax s
  | .unkAB => Sys2Proof.Machine.execUnkAB s
  | .ldyAbs => Sys2Proof.Machine.execLdyAbs s
  | .ldaAbs => Sys2Proof.Machine.execLdaAbs s
  | .ldxAbs => Sys2Proof.Machine.execLdxAbs s
  | .laxAbs => Sys2Proof.Machine.execLaxAbs s
  | .bcs => Sys2Proof.Machine.execBcs s
  | .ldaIzy => Sys2Proof.Machine.execLdaIzy s
  | .unkB2 => Sys2Proof.Machine.execUnkB2 s
  | .laxIzy => Sys2Proof.Machine.execLaxIzy s
  | .ldyZpx => Sys2Proof.Machine.execLdyZpx s
  | .ldaZpx => Sys2Proof.Machine.execLdaZpx s
  | .ldxZpy => Sys2Proof.Machine.execLdxZpy s
  | .laxZpy => Sys2Proof.Machine.execLaxZpy s
  | .clv => Sys2Proof.Machine.execClv s
  | .ldaAby => Sys2Proof.Machine.execLdaAby s
  | .tsx => Sys2Proof.Machine.execTsx s
  | .lasAby => Sys2Proof.Machine.execLasAby s
  | .ldyAbx => Sys2Proof.Machine.execLdyAbx s
  | .ldaAbx => Sys2Proof.Machine.execLdaAbx s
  | .ldxAby => Sys2Proof.Machine.execLdxAby s
  | .laxAby => Sys2Proof.Machine.execLaxAby s
  | .cpyImm => Sys2Proof.Machine.execCpyImm s
  | .cmpIzx => Sys2Proof.Machine.execCmpIzx s
  | .nopImmC2 => Sys2Proof.Machine.execNopImmC2 s
  | .dcpIzx => Sys2Proof.Machine.execDcpIzx s
  | .cpyZp => Sys2Proof.Machine.execCpyZp s
  | .cmpZp => Sys2Proof.Machine.execCmpZp s
  | .decZp => Sys2Proof.Machine.execDecZp s
  | .dcpZp => Sys2Proof.Machine.execDcpZp s
  | .iny => Sys2Proof.Machine.execIny s
  | .cmpImm => Sys2Proof.Machine.execCmpImm s
  | .dex => Sys2Proof.Machine.execDex s
  | .axsImm => Sys2Proof.Machine.execAxsImm s
  | .cpyAbs => Sys2Proof.Machine.execCpyAbs s
  | .cmpAbs => Sys2Proof.Machine.execCmpAbs s
  | .decAbs => Sys2Proof.Machine.execDecAbs s
  | .dcpAbs => Sys2Proof.Machine.execDcpAbs s
  | .bne => Sys2Proof.Machine.execBne s
  | .cmpIzy => Sys2Proof.Machine.execCmpIzy s
  | .unkD2 => Sys2Proof.Machine.execUnkD2 s
  | .dcpIzy => Sys2Proof.Machine.execDcpIzy s
  | .nopZpxD4 => Sys2Proof.Machine.execNopZpxD4 s
  | .cmpZpx => Sys2Proof.Machine.execCmpZpx s
  | .decZpx => Sys2Proof.Machine.execDecZpx s
  | .dcpZpx => Sys2Proof.Machine.execDcpZpx s
  | .cld => Sys2Proof.Machine.execCld s
  | .cmpAby => Sys2Proof.Machine.execCmpAby s
  | .nopImpDA => Sys2Proof.Machine.execNopImpDA s
  | .dcpAby => Sys2Proof.Machine.execDcpAby s
  | .nopAbxDC => Sys2Proof.Machine.execNopAbxDC s
  | .cmpAbx => Sys2Proof.Machine.execCmpAbx s
  | .decAbx => Sys2Proof.Machine.execDecAbx s
  | .dcpAbx => Sys2Proof.Machine.execDcpAbx s
  | .cpxImm => Sys2Proof.Machine.execCpxImm s
  | .sbcIzx => Sys2Proof.Machine.execSbcIzx s
  | .nopImmE2 => Sys2Proof.Machine.execNopImmE2 s
  | .iscIzx => Sys2Proof.Machine.execIscIzx s
  | .cpxZp => Sys2Proof.Machine.execCpxZp s
  | .sbcZp => Sys2Proof.Machine.execSbcZp s
  | .incZp => Sys2Proof.Machine.execIncZp s
  | .iscZp => Sys2Proof.Machine.execIscZp s
  | .inx => Sys2Proof.Machine.execInx s
  | .sbcImm => Sys2Proof.Machine.execSbcImm s
  | .nop => Sys2Proof.Machine.execNop s
  | .sbcImmEB => Sys2Proof.Machine.execSbcImmEB s
  | .cpxAbs => Sys2Proof.Machine.execCpxAbs s
  | .sbcAbs => Sys2Proof.Machine.execSbcAbs s
  | .incAbs => Sys2Proof.Machine.execIncAbs s
  | .iscAbs => Sys2Proof.Machine.execIscAbs s
  | .beq => Sys2Proof.Machine.execBeq s
  | .sbcIzy => Sys2Proof.Machine.execSbcIzy s
  | .unkF2 => Sys2Proof.Machine.execUnkF2 s
  | .iscIzy => Sys2Proof.Machine.execIscIzy s
  | .nopZpxF4 => Sys2Proof.Machine.execNopZpxF4 s
  | .sbcZpx => Sys2Proof.Machine.execSbcZpx s
  | .incZpx => Sys2Proof.Machine.execIncZpx s
  | .iscZpx => Sys2Proof.Machine.execIscZpx s
  | .sed => Sys2Proof.Machine.execSed s
  | .sbcAby => Sys2Proof.Machine.execSbcAby s
  | .nopImpFA => Sys2Proof.Machine.execNopImpFA s
  | .iscAby => Sys2Proof.Machine.execIscAby s
  | .nopAbxFC => Sys2Proof.Machine.execNopAbxFC s
  | .sbcAbx => Sys2Proof.Machine.execSbcAbx s
  | .incAbx => Sys2Proof.Machine.execIncAbx s
  | .iscAbx => Sys2Proof.Machine.execIscAbx s

end Sys2Proof.Machine
end

