-- ==== Sys2Proof/Decode.lean ====
section
/-! DEFINITION. The decoding contract (30_encoding.md R90 to R98): the opcode table, the decoder (total on any bytes), and
the encoder. -/

namespace Sys2Proof

/-- The opcode table of R96, row by row. -/
def Instr.row : Instr → OpcodeRow
  | .brk => { opcode := 0x00, mnemonic := .brk, format := .imp, bytes := 2, cycles := 7, penalty := .none, cls := .brk }
  | .oraIzx => { opcode := 0x01, mnemonic := .ora, format := .izx, bytes := 2, cycles := 6, penalty := .none, cls := .read }
  | .unk02 => { opcode := 0x02, mnemonic := .unk, format := .imp, bytes := 1, cycles := 2, penalty := .none, cls := .unk }
  | .sloIzx => { opcode := 0x03, mnemonic := .slo, format := .izx, bytes := 2, cycles := 8, penalty := .none, cls := .rmw }
  | .nopZp04 => { opcode := 0x04, mnemonic := .nop, format := .zp, bytes := 2, cycles := 3, penalty := .none, cls := .read }
  | .oraZp => { opcode := 0x05, mnemonic := .ora, format := .zp, bytes := 2, cycles := 3, penalty := .none, cls := .read }
  | .aslZp => { opcode := 0x06, mnemonic := .asl, format := .zp, bytes := 2, cycles := 5, penalty := .none, cls := .rmw }
  | .sloZp => { opcode := 0x07, mnemonic := .slo, format := .zp, bytes := 2, cycles := 5, penalty := .none, cls := .rmw }
  | .php => { opcode := 0x08, mnemonic := .php, format := .imp, bytes := 1, cycles := 3, penalty := .none, cls := .push }
  | .oraImm => { opcode := 0x09, mnemonic := .ora, format := .imm, bytes := 2, cycles := 2, penalty := .none, cls := .read }
  | .aslAcc => { opcode := 0x0A, mnemonic := .asl, format := .acc, bytes := 1, cycles := 2, penalty := .none, cls := .acc }
  | .ancImm0B => { opcode := 0x0B, mnemonic := .anc, format := .imm, bytes := 2, cycles := 2, penalty := .none, cls := .read }
  | .nopAbs => { opcode := 0x0C, mnemonic := .nop, format := .abs, bytes := 3, cycles := 4, penalty := .none, cls := .read }
  | .oraAbs => { opcode := 0x0D, mnemonic := .ora, format := .abs, bytes := 3, cycles := 4, penalty := .none, cls := .read }
  | .aslAbs => { opcode := 0x0E, mnemonic := .asl, format := .abs, bytes := 3, cycles := 6, penalty := .none, cls := .rmw }
  | .sloAbs => { opcode := 0x0F, mnemonic := .slo, format := .abs, bytes := 3, cycles := 6, penalty := .none, cls := .rmw }
  | .bpl => { opcode := 0x10, mnemonic := .bpl, format := .rel, bytes := 2, cycles := 2, penalty := .takenPage, cls := .branch }
  | .oraIzy => { opcode := 0x11, mnemonic := .ora, format := .izy, bytes := 2, cycles := 5, penalty := .page, cls := .read }
  | .unk12 => { opcode := 0x12, mnemonic := .unk, format := .imp, bytes := 1, cycles := 2, penalty := .none, cls := .unk }
  | .sloIzy => { opcode := 0x13, mnemonic := .slo, format := .izy, bytes := 2, cycles := 8, penalty := .none, cls := .rmw }
  | .nopZpx14 => { opcode := 0x14, mnemonic := .nop, format := .zpx, bytes := 2, cycles := 4, penalty := .none, cls := .read }
  | .oraZpx => { opcode := 0x15, mnemonic := .ora, format := .zpx, bytes := 2, cycles := 4, penalty := .none, cls := .read }
  | .aslZpx => { opcode := 0x16, mnemonic := .asl, format := .zpx, bytes := 2, cycles := 6, penalty := .none, cls := .rmw }
  | .sloZpx => { opcode := 0x17, mnemonic := .slo, format := .zpx, bytes := 2, cycles := 6, penalty := .none, cls := .rmw }
  | .clc => { opcode := 0x18, mnemonic := .clc, format := .imp, bytes := 1, cycles := 2, penalty := .none, cls := .imp }
  | .oraAby => { opcode := 0x19, mnemonic := .ora, format := .aby, bytes := 3, cycles := 4, penalty := .page, cls := .read }
  | .nopImp1A => { opcode := 0x1A, mnemonic := .nop, format := .imp, bytes := 1, cycles := 2, penalty := .none, cls := .imp }
  | .sloAby => { opcode := 0x1B, mnemonic := .slo, format := .aby, bytes := 3, cycles := 7, penalty := .none, cls := .rmw }
  | .nopAbx1C => { opcode := 0x1C, mnemonic := .nop, format := .abx, bytes := 3, cycles := 4, penalty := .page, cls := .read }
  | .oraAbx => { opcode := 0x1D, mnemonic := .ora, format := .abx, bytes := 3, cycles := 4, penalty := .page, cls := .read }
  | .aslAbx => { opcode := 0x1E, mnemonic := .asl, format := .abx, bytes := 3, cycles := 7, penalty := .none, cls := .rmw }
  | .sloAbx => { opcode := 0x1F, mnemonic := .slo, format := .abx, bytes := 3, cycles := 7, penalty := .none, cls := .rmw }
  | .jsr => { opcode := 0x20, mnemonic := .jsr, format := .abs, bytes := 3, cycles := 6, penalty := .none, cls := .jsr }
  | .andIzx => { opcode := 0x21, mnemonic := .and, format := .izx, bytes := 2, cycles := 6, penalty := .none, cls := .read }
  | .unk22 => { opcode := 0x22, mnemonic := .unk, format := .imp, bytes := 1, cycles := 2, penalty := .none, cls := .unk }
  | .rlaIzx => { opcode := 0x23, mnemonic := .rla, format := .izx, bytes := 2, cycles := 8, penalty := .none, cls := .rmw }
  | .bitZp => { opcode := 0x24, mnemonic := .bit, format := .zp, bytes := 2, cycles := 3, penalty := .none, cls := .read }
  | .andZp => { opcode := 0x25, mnemonic := .and, format := .zp, bytes := 2, cycles := 3, penalty := .none, cls := .read }
  | .rolZp => { opcode := 0x26, mnemonic := .rol, format := .zp, bytes := 2, cycles := 5, penalty := .none, cls := .rmw }
  | .rlaZp => { opcode := 0x27, mnemonic := .rla, format := .zp, bytes := 2, cycles := 5, penalty := .none, cls := .rmw }
  | .plp => { opcode := 0x28, mnemonic := .plp, format := .imp, bytes := 1, cycles := 4, penalty := .none, cls := .pull }
  | .andImm => { opcode := 0x29, mnemonic := .and, format := .imm, bytes := 2, cycles := 2, penalty := .none, cls := .read }
  | .rolAcc => { opcode := 0x2A, mnemonic := .rol, format := .acc, bytes := 1, cycles := 2, penalty := .none, cls := .acc }
  | .ancImm2B => { opcode := 0x2B, mnemonic := .anc, format := .imm, bytes := 2, cycles := 2, penalty := .none, cls := .read }
  | .bitAbs => { opcode := 0x2C, mnemonic := .bit, format := .abs, bytes := 3, cycles := 4, penalty := .none, cls := .read }
  | .andAbs => { opcode := 0x2D, mnemonic := .and, format := .abs, bytes := 3, cycles := 4, penalty := .none, cls := .read }
  | .rolAbs => { opcode := 0x2E, mnemonic := .rol, format := .abs, bytes := 3, cycles := 6, penalty := .none, cls := .rmw }
  | .rlaAbs => { opcode := 0x2F, mnemonic := .rla, format := .abs, bytes := 3, cycles := 6, penalty := .none, cls := .rmw }
  | .bmi => { opcode := 0x30, mnemonic := .bmi, format := .rel, bytes := 2, cycles := 2, penalty := .takenPage, cls := .branch }
  | .andIzy => { opcode := 0x31, mnemonic := .and, format := .izy, bytes := 2, cycles := 5, penalty := .page, cls := .read }
  | .unk32 => { opcode := 0x32, mnemonic := .unk, format := .imp, bytes := 1, cycles := 2, penalty := .none, cls := .unk }
  | .rlaIzy => { opcode := 0x33, mnemonic := .rla, format := .izy, bytes := 2, cycles := 8, penalty := .none, cls := .rmw }
  | .nopZpx34 => { opcode := 0x34, mnemonic := .nop, format := .zpx, bytes := 2, cycles := 4, penalty := .none, cls := .read }
  | .andZpx => { opcode := 0x35, mnemonic := .and, format := .zpx, bytes := 2, cycles := 4, penalty := .none, cls := .read }
  | .rolZpx => { opcode := 0x36, mnemonic := .rol, format := .zpx, bytes := 2, cycles := 6, penalty := .none, cls := .rmw }
  | .rlaZpx => { opcode := 0x37, mnemonic := .rla, format := .zpx, bytes := 2, cycles := 6, penalty := .none, cls := .rmw }
  | .sec => { opcode := 0x38, mnemonic := .sec, format := .imp, bytes := 1, cycles := 2, penalty := .none, cls := .imp }
  | .andAby => { opcode := 0x39, mnemonic := .and, format := .aby, bytes := 3, cycles := 4, penalty := .page, cls := .read }
  | .nopImp3A => { opcode := 0x3A, mnemonic := .nop, format := .imp, bytes := 1, cycles := 2, penalty := .none, cls := .imp }
  | .rlaAby => { opcode := 0x3B, mnemonic := .rla, format := .aby, bytes := 3, cycles := 7, penalty := .none, cls := .rmw }
  | .nopAbx3C => { opcode := 0x3C, mnemonic := .nop, format := .abx, bytes := 3, cycles := 4, penalty := .page, cls := .read }
  | .andAbx => { opcode := 0x3D, mnemonic := .and, format := .abx, bytes := 3, cycles := 4, penalty := .page, cls := .read }
  | .rolAbx => { opcode := 0x3E, mnemonic := .rol, format := .abx, bytes := 3, cycles := 7, penalty := .none, cls := .rmw }
  | .rlaAbx => { opcode := 0x3F, mnemonic := .rla, format := .abx, bytes := 3, cycles := 7, penalty := .none, cls := .rmw }
  | .rti => { opcode := 0x40, mnemonic := .rti, format := .imp, bytes := 1, cycles := 6, penalty := .none, cls := .rti }
  | .eorIzx => { opcode := 0x41, mnemonic := .eor, format := .izx, bytes := 2, cycles := 6, penalty := .none, cls := .read }
  | .unk42 => { opcode := 0x42, mnemonic := .unk, format := .imp, bytes := 1, cycles := 2, penalty := .none, cls := .unk }
  | .sreIzx => { opcode := 0x43, mnemonic := .sre, format := .izx, bytes := 2, cycles := 8, penalty := .none, cls := .rmw }
  | .nopZp44 => { opcode := 0x44, mnemonic := .nop, format := .zp, bytes := 2, cycles := 3, penalty := .none, cls := .read }
  | .eorZp => { opcode := 0x45, mnemonic := .eor, format := .zp, bytes := 2, cycles := 3, penalty := .none, cls := .read }
  | .lsrZp => { opcode := 0x46, mnemonic := .lsr, format := .zp, bytes := 2, cycles := 5, penalty := .none, cls := .rmw }
  | .sreZp => { opcode := 0x47, mnemonic := .sre, format := .zp, bytes := 2, cycles := 5, penalty := .none, cls := .rmw }
  | .pha => { opcode := 0x48, mnemonic := .pha, format := .imp, bytes := 1, cycles := 3, penalty := .none, cls := .push }
  | .eorImm => { opcode := 0x49, mnemonic := .eor, format := .imm, bytes := 2, cycles := 2, penalty := .none, cls := .read }
  | .lsrAcc => { opcode := 0x4A, mnemonic := .lsr, format := .acc, bytes := 1, cycles := 2, penalty := .none, cls := .acc }
  | .alrImm => { opcode := 0x4B, mnemonic := .alr, format := .imm, bytes := 2, cycles := 2, penalty := .none, cls := .read }
  | .jmpAbs => { opcode := 0x4C, mnemonic := .jmp, format := .abs, bytes := 3, cycles := 3, penalty := .none, cls := .jmp }
  | .eorAbs => { opcode := 0x4D, mnemonic := .eor, format := .abs, bytes := 3, cycles := 4, penalty := .none, cls := .read }
  | .lsrAbs => { opcode := 0x4E, mnemonic := .lsr, format := .abs, bytes := 3, cycles := 6, penalty := .none, cls := .rmw }
  | .sreAbs => { opcode := 0x4F, mnemonic := .sre, format := .abs, bytes := 3, cycles := 6, penalty := .none, cls := .rmw }
  | .bvc => { opcode := 0x50, mnemonic := .bvc, format := .rel, bytes := 2, cycles := 2, penalty := .takenPage, cls := .branch }
  | .eorIzy => { opcode := 0x51, mnemonic := .eor, format := .izy, bytes := 2, cycles := 5, penalty := .page, cls := .read }
  | .unk52 => { opcode := 0x52, mnemonic := .unk, format := .imp, bytes := 1, cycles := 2, penalty := .none, cls := .unk }
  | .sreIzy => { opcode := 0x53, mnemonic := .sre, format := .izy, bytes := 2, cycles := 8, penalty := .none, cls := .rmw }
  | .nopZpx54 => { opcode := 0x54, mnemonic := .nop, format := .zpx, bytes := 2, cycles := 4, penalty := .none, cls := .read }
  | .eorZpx => { opcode := 0x55, mnemonic := .eor, format := .zpx, bytes := 2, cycles := 4, penalty := .none, cls := .read }
  | .lsrZpx => { opcode := 0x56, mnemonic := .lsr, format := .zpx, bytes := 2, cycles := 6, penalty := .none, cls := .rmw }
  | .sreZpx => { opcode := 0x57, mnemonic := .sre, format := .zpx, bytes := 2, cycles := 6, penalty := .none, cls := .rmw }
  | .cli => { opcode := 0x58, mnemonic := .cli, format := .imp, bytes := 1, cycles := 2, penalty := .none, cls := .imp }
  | .eorAby => { opcode := 0x59, mnemonic := .eor, format := .aby, bytes := 3, cycles := 4, penalty := .page, cls := .read }
  | .nopImp5A => { opcode := 0x5A, mnemonic := .nop, format := .imp, bytes := 1, cycles := 2, penalty := .none, cls := .imp }
  | .sreAby => { opcode := 0x5B, mnemonic := .sre, format := .aby, bytes := 3, cycles := 7, penalty := .none, cls := .rmw }
  | .nopAbx5C => { opcode := 0x5C, mnemonic := .nop, format := .abx, bytes := 3, cycles := 4, penalty := .page, cls := .read }
  | .eorAbx => { opcode := 0x5D, mnemonic := .eor, format := .abx, bytes := 3, cycles := 4, penalty := .page, cls := .read }
  | .lsrAbx => { opcode := 0x5E, mnemonic := .lsr, format := .abx, bytes := 3, cycles := 7, penalty := .none, cls := .rmw }
  | .sreAbx => { opcode := 0x5F, mnemonic := .sre, format := .abx, bytes := 3, cycles := 7, penalty := .none, cls := .rmw }
  | .rts => { opcode := 0x60, mnemonic := .rts, format := .imp, bytes := 1, cycles := 6, penalty := .none, cls := .rts }
  | .adcIzx => { opcode := 0x61, mnemonic := .adc, format := .izx, bytes := 2, cycles := 6, penalty := .none, cls := .read }
  | .unk62 => { opcode := 0x62, mnemonic := .unk, format := .imp, bytes := 1, cycles := 2, penalty := .none, cls := .unk }
  | .rraIzx => { opcode := 0x63, mnemonic := .rra, format := .izx, bytes := 2, cycles := 8, penalty := .none, cls := .rmw }
  | .nopZp64 => { opcode := 0x64, mnemonic := .nop, format := .zp, bytes := 2, cycles := 3, penalty := .none, cls := .read }
  | .adcZp => { opcode := 0x65, mnemonic := .adc, format := .zp, bytes := 2, cycles := 3, penalty := .none, cls := .read }
  | .rorZp => { opcode := 0x66, mnemonic := .ror, format := .zp, bytes := 2, cycles := 5, penalty := .none, cls := .rmw }
  | .rraZp => { opcode := 0x67, mnemonic := .rra, format := .zp, bytes := 2, cycles := 5, penalty := .none, cls := .rmw }
  | .pla => { opcode := 0x68, mnemonic := .pla, format := .imp, bytes := 1, cycles := 4, penalty := .none, cls := .pull }
  | .adcImm => { opcode := 0x69, mnemonic := .adc, format := .imm, bytes := 2, cycles := 2, penalty := .none, cls := .read }
  | .rorAcc => { opcode := 0x6A, mnemonic := .ror, format := .acc, bytes := 1, cycles := 2, penalty := .none, cls := .acc }
  | .arrImm => { opcode := 0x6B, mnemonic := .arr, format := .imm, bytes := 2, cycles := 2, penalty := .none, cls := .read }
  | .jmpInd => { opcode := 0x6C, mnemonic := .jmp, format := .ind, bytes := 3, cycles := 5, penalty := .none, cls := .jmpind }
  | .adcAbs => { opcode := 0x6D, mnemonic := .adc, format := .abs, bytes := 3, cycles := 4, penalty := .none, cls := .read }
  | .rorAbs => { opcode := 0x6E, mnemonic := .ror, format := .abs, bytes := 3, cycles := 6, penalty := .none, cls := .rmw }
  | .rraAbs => { opcode := 0x6F, mnemonic := .rra, format := .abs, bytes := 3, cycles := 6, penalty := .none, cls := .rmw }
  | .bvs => { opcode := 0x70, mnemonic := .bvs, format := .rel, bytes := 2, cycles := 2, penalty := .takenPage, cls := .branch }
  | .adcIzy => { opcode := 0x71, mnemonic := .adc, format := .izy, bytes := 2, cycles := 5, penalty := .page, cls := .read }
  | .unk72 => { opcode := 0x72, mnemonic := .unk, format := .imp, bytes := 1, cycles := 2, penalty := .none, cls := .unk }
  | .rraIzy => { opcode := 0x73, mnemonic := .rra, format := .izy, bytes := 2, cycles := 8, penalty := .none, cls := .rmw }
  | .nopZpx74 => { opcode := 0x74, mnemonic := .nop, format := .zpx, bytes := 2, cycles := 4, penalty := .none, cls := .read }
  | .adcZpx => { opcode := 0x75, mnemonic := .adc, format := .zpx, bytes := 2, cycles := 4, penalty := .none, cls := .read }
  | .rorZpx => { opcode := 0x76, mnemonic := .ror, format := .zpx, bytes := 2, cycles := 6, penalty := .none, cls := .rmw }
  | .rraZpx => { opcode := 0x77, mnemonic := .rra, format := .zpx, bytes := 2, cycles := 6, penalty := .none, cls := .rmw }
  | .sei => { opcode := 0x78, mnemonic := .sei, format := .imp, bytes := 1, cycles := 2, penalty := .none, cls := .imp }
  | .adcAby => { opcode := 0x79, mnemonic := .adc, format := .aby, bytes := 3, cycles := 4, penalty := .page, cls := .read }
  | .nopImp7A => { opcode := 0x7A, mnemonic := .nop, format := .imp, bytes := 1, cycles := 2, penalty := .none, cls := .imp }
  | .rraAby => { opcode := 0x7B, mnemonic := .rra, format := .aby, bytes := 3, cycles := 7, penalty := .none, cls := .rmw }
  | .nopAbx7C => { opcode := 0x7C, mnemonic := .nop, format := .abx, bytes := 3, cycles := 4, penalty := .page, cls := .read }
  | .adcAbx => { opcode := 0x7D, mnemonic := .adc, format := .abx, bytes := 3, cycles := 4, penalty := .page, cls := .read }
  | .rorAbx => { opcode := 0x7E, mnemonic := .ror, format := .abx, bytes := 3, cycles := 7, penalty := .none, cls := .rmw }
  | .rraAbx => { opcode := 0x7F, mnemonic := .rra, format := .abx, bytes := 3, cycles := 7, penalty := .none, cls := .rmw }
  | .nopImm80 => { opcode := 0x80, mnemonic := .nop, format := .imm, bytes := 2, cycles := 2, penalty := .none, cls := .read }
  | .staIzx => { opcode := 0x81, mnemonic := .sta, format := .izx, bytes := 2, cycles := 6, penalty := .none, cls := .write }
  | .nopImm82 => { opcode := 0x82, mnemonic := .nop, format := .imm, bytes := 2, cycles := 2, penalty := .none, cls := .read }
  | .saxIzx => { opcode := 0x83, mnemonic := .sax, format := .izx, bytes := 2, cycles := 6, penalty := .none, cls := .write }
  | .styZp => { opcode := 0x84, mnemonic := .sty, format := .zp, bytes := 2, cycles := 3, penalty := .none, cls := .write }
  | .staZp => { opcode := 0x85, mnemonic := .sta, format := .zp, bytes := 2, cycles := 3, penalty := .none, cls := .write }
  | .stxZp => { opcode := 0x86, mnemonic := .stx, format := .zp, bytes := 2, cycles := 3, penalty := .none, cls := .write }
  | .saxZp => { opcode := 0x87, mnemonic := .sax, format := .zp, bytes := 2, cycles := 3, penalty := .none, cls := .write }
  | .dey => { opcode := 0x88, mnemonic := .dey, format := .imp, bytes := 1, cycles := 2, penalty := .none, cls := .imp }
  | .nopImm89 => { opcode := 0x89, mnemonic := .nop, format := .imm, bytes := 2, cycles := 2, penalty := .none, cls := .read }
  | .txa => { opcode := 0x8A, mnemonic := .txa, format := .imp, bytes := 1, cycles := 2, penalty := .none, cls := .imp }
  | .unk8B => { opcode := 0x8B, mnemonic := .unk, format := .imp, bytes := 1, cycles := 2, penalty := .none, cls := .unk }
  | .styAbs => { opcode := 0x8C, mnemonic := .sty, format := .abs, bytes := 3, cycles := 4, penalty := .none, cls := .write }
  | .staAbs => { opcode := 0x8D, mnemonic := .sta, format := .abs, bytes := 3, cycles := 4, penalty := .none, cls := .write }
  | .stxAbs => { opcode := 0x8E, mnemonic := .stx, format := .abs, bytes := 3, cycles := 4, penalty := .none, cls := .write }
  | .saxAbs => { opcode := 0x8F, mnemonic := .sax, format := .abs, bytes := 3, cycles := 4, penalty := .none, cls := .write }
  | .bcc => { opcode := 0x90, mnemonic := .bcc, format := .rel, bytes := 2, cycles := 2, penalty := .takenPage, cls := .branch }
  | .staIzy => { opcode := 0x91, mnemonic := .sta, format := .izy, bytes := 2, cycles := 6, penalty := .none, cls := .write }
  | .unk92 => { opcode := 0x92, mnemonic := .unk, format := .imp, bytes := 1, cycles := 2, penalty := .none, cls := .unk }
  | .unk93 => { opcode := 0x93, mnemonic := .unk, format := .imp, bytes := 1, cycles := 2, penalty := .none, cls := .unk }
  | .styZpx => { opcode := 0x94, mnemonic := .sty, format := .zpx, bytes := 2, cycles := 4, penalty := .none, cls := .write }
  | .staZpx => { opcode := 0x95, mnemonic := .sta, format := .zpx, bytes := 2, cycles := 4, penalty := .none, cls := .write }
  | .stxZpy => { opcode := 0x96, mnemonic := .stx, format := .zpy, bytes := 2, cycles := 4, penalty := .none, cls := .write }
  | .saxZpy => { opcode := 0x97, mnemonic := .sax, format := .zpy, bytes := 2, cycles := 4, penalty := .none, cls := .write }
  | .tya => { opcode := 0x98, mnemonic := .tya, format := .imp, bytes := 1, cycles := 2, penalty := .none, cls := .imp }
  | .staAby => { opcode := 0x99, mnemonic := .sta, format := .aby, bytes := 3, cycles := 5, penalty := .none, cls := .write }
  | .txs => { opcode := 0x9A, mnemonic := .txs, format := .imp, bytes := 1, cycles := 2, penalty := .none, cls := .imp }
  | .unk9B => { opcode := 0x9B, mnemonic := .unk, format := .imp, bytes := 1, cycles := 2, penalty := .none, cls := .unk }
  | .unk9C => { opcode := 0x9C, mnemonic := .unk, format := .imp, bytes := 1, cycles := 2, penalty := .none, cls := .unk }
  | .staAbx => { opcode := 0x9D, mnemonic := .sta, format := .abx, bytes := 3, cycles := 5, penalty := .none, cls := .write }
  | .unk9E => { opcode := 0x9E, mnemonic := .unk, format := .imp, bytes := 1, cycles := 2, penalty := .none, cls := .unk }
  | .unk9F => { opcode := 0x9F, mnemonic := .unk, format := .imp, bytes := 1, cycles := 2, penalty := .none, cls := .unk }
  | .ldyImm => { opcode := 0xA0, mnemonic := .ldy, format := .imm, bytes := 2, cycles := 2, penalty := .none, cls := .read }
  | .ldaIzx => { opcode := 0xA1, mnemonic := .lda, format := .izx, bytes := 2, cycles := 6, penalty := .none, cls := .read }
  | .ldxImm => { opcode := 0xA2, mnemonic := .ldx, format := .imm, bytes := 2, cycles := 2, penalty := .none, cls := .read }
  | .laxIzx => { opcode := 0xA3, mnemonic := .lax, format := .izx, bytes := 2, cycles := 6, penalty := .none, cls := .read }
  | .ldyZp => { opcode := 0xA4, mnemonic := .ldy, format := .zp, bytes := 2, cycles := 3, penalty := .none, cls := .read }
  | .ldaZp => { opcode := 0xA5, mnemonic := .lda, format := .zp, bytes := 2, cycles := 3, penalty := .none, cls := .read }
  | .ldxZp => { opcode := 0xA6, mnemonic := .ldx, format := .zp, bytes := 2, cycles := 3, penalty := .none, cls := .read }
  | .laxZp => { opcode := 0xA7, mnemonic := .lax, format := .zp, bytes := 2, cycles := 3, penalty := .none, cls := .read }
  | .tay => { opcode := 0xA8, mnemonic := .tay, format := .imp, bytes := 1, cycles := 2, penalty := .none, cls := .imp }
  | .ldaImm => { opcode := 0xA9, mnemonic := .lda, format := .imm, bytes := 2, cycles := 2, penalty := .none, cls := .read }
  | .tax => { opcode := 0xAA, mnemonic := .tax, format := .imp, bytes := 1, cycles := 2, penalty := .none, cls := .imp }
  | .unkAB => { opcode := 0xAB, mnemonic := .unk, format := .imp, bytes := 1, cycles := 2, penalty := .none, cls := .unk }
  | .ldyAbs => { opcode := 0xAC, mnemonic := .ldy, format := .abs, bytes := 3, cycles := 4, penalty := .none, cls := .read }
  | .ldaAbs => { opcode := 0xAD, mnemonic := .lda, format := .abs, bytes := 3, cycles := 4, penalty := .none, cls := .read }
  | .ldxAbs => { opcode := 0xAE, mnemonic := .ldx, format := .abs, bytes := 3, cycles := 4, penalty := .none, cls := .read }
  | .laxAbs => { opcode := 0xAF, mnemonic := .lax, format := .abs, bytes := 3, cycles := 4, penalty := .none, cls := .read }
  | .bcs => { opcode := 0xB0, mnemonic := .bcs, format := .rel, bytes := 2, cycles := 2, penalty := .takenPage, cls := .branch }
  | .ldaIzy => { opcode := 0xB1, mnemonic := .lda, format := .izy, bytes := 2, cycles := 5, penalty := .page, cls := .read }
  | .unkB2 => { opcode := 0xB2, mnemonic := .unk, format := .imp, bytes := 1, cycles := 2, penalty := .none, cls := .unk }
  | .laxIzy => { opcode := 0xB3, mnemonic := .lax, format := .izy, bytes := 2, cycles := 5, penalty := .page, cls := .read }
  | .ldyZpx => { opcode := 0xB4, mnemonic := .ldy, format := .zpx, bytes := 2, cycles := 4, penalty := .none, cls := .read }
  | .ldaZpx => { opcode := 0xB5, mnemonic := .lda, format := .zpx, bytes := 2, cycles := 4, penalty := .none, cls := .read }
  | .ldxZpy => { opcode := 0xB6, mnemonic := .ldx, format := .zpy, bytes := 2, cycles := 4, penalty := .none, cls := .read }
  | .laxZpy => { opcode := 0xB7, mnemonic := .lax, format := .zpy, bytes := 2, cycles := 4, penalty := .none, cls := .read }
  | .clv => { opcode := 0xB8, mnemonic := .clv, format := .imp, bytes := 1, cycles := 2, penalty := .none, cls := .imp }
  | .ldaAby => { opcode := 0xB9, mnemonic := .lda, format := .aby, bytes := 3, cycles := 4, penalty := .page, cls := .read }
  | .tsx => { opcode := 0xBA, mnemonic := .tsx, format := .imp, bytes := 1, cycles := 2, penalty := .none, cls := .imp }
  | .lasAby => { opcode := 0xBB, mnemonic := .las, format := .aby, bytes := 3, cycles := 4, penalty := .page, cls := .read }
  | .ldyAbx => { opcode := 0xBC, mnemonic := .ldy, format := .abx, bytes := 3, cycles := 4, penalty := .page, cls := .read }
  | .ldaAbx => { opcode := 0xBD, mnemonic := .lda, format := .abx, bytes := 3, cycles := 4, penalty := .page, cls := .read }
  | .ldxAby => { opcode := 0xBE, mnemonic := .ldx, format := .aby, bytes := 3, cycles := 4, penalty := .page, cls := .read }
  | .laxAby => { opcode := 0xBF, mnemonic := .lax, format := .aby, bytes := 3, cycles := 4, penalty := .page, cls := .read }
  | .cpyImm => { opcode := 0xC0, mnemonic := .cpy, format := .imm, bytes := 2, cycles := 2, penalty := .none, cls := .read }
  | .cmpIzx => { opcode := 0xC1, mnemonic := .cmp, format := .izx, bytes := 2, cycles := 6, penalty := .none, cls := .read }
  | .nopImmC2 => { opcode := 0xC2, mnemonic := .nop, format := .imm, bytes := 2, cycles := 2, penalty := .none, cls := .read }
  | .dcpIzx => { opcode := 0xC3, mnemonic := .dcp, format := .izx, bytes := 2, cycles := 8, penalty := .none, cls := .rmw }
  | .cpyZp => { opcode := 0xC4, mnemonic := .cpy, format := .zp, bytes := 2, cycles := 3, penalty := .none, cls := .read }
  | .cmpZp => { opcode := 0xC5, mnemonic := .cmp, format := .zp, bytes := 2, cycles := 3, penalty := .none, cls := .read }
  | .decZp => { opcode := 0xC6, mnemonic := .dec, format := .zp, bytes := 2, cycles := 5, penalty := .none, cls := .rmw }
  | .dcpZp => { opcode := 0xC7, mnemonic := .dcp, format := .zp, bytes := 2, cycles := 5, penalty := .none, cls := .rmw }
  | .iny => { opcode := 0xC8, mnemonic := .iny, format := .imp, bytes := 1, cycles := 2, penalty := .none, cls := .imp }
  | .cmpImm => { opcode := 0xC9, mnemonic := .cmp, format := .imm, bytes := 2, cycles := 2, penalty := .none, cls := .read }
  | .dex => { opcode := 0xCA, mnemonic := .dex, format := .imp, bytes := 1, cycles := 2, penalty := .none, cls := .imp }
  | .axsImm => { opcode := 0xCB, mnemonic := .axs, format := .imm, bytes := 2, cycles := 2, penalty := .none, cls := .read }
  | .cpyAbs => { opcode := 0xCC, mnemonic := .cpy, format := .abs, bytes := 3, cycles := 4, penalty := .none, cls := .read }
  | .cmpAbs => { opcode := 0xCD, mnemonic := .cmp, format := .abs, bytes := 3, cycles := 4, penalty := .none, cls := .read }
  | .decAbs => { opcode := 0xCE, mnemonic := .dec, format := .abs, bytes := 3, cycles := 6, penalty := .none, cls := .rmw }
  | .dcpAbs => { opcode := 0xCF, mnemonic := .dcp, format := .abs, bytes := 3, cycles := 6, penalty := .none, cls := .rmw }
  | .bne => { opcode := 0xD0, mnemonic := .bne, format := .rel, bytes := 2, cycles := 2, penalty := .takenPage, cls := .branch }
  | .cmpIzy => { opcode := 0xD1, mnemonic := .cmp, format := .izy, bytes := 2, cycles := 5, penalty := .page, cls := .read }
  | .unkD2 => { opcode := 0xD2, mnemonic := .unk, format := .imp, bytes := 1, cycles := 2, penalty := .none, cls := .unk }
  | .dcpIzy => { opcode := 0xD3, mnemonic := .dcp, format := .izy, bytes := 2, cycles := 8, penalty := .none, cls := .rmw }
  | .nopZpxD4 => { opcode := 0xD4, mnemonic := .nop, format := .zpx, bytes := 2, cycles := 4, penalty := .none, cls := .read }
  | .cmpZpx => { opcode := 0xD5, mnemonic := .cmp, format := .zpx, bytes := 2, cycles := 4, penalty := .none, cls := .read }
  | .decZpx => { opcode := 0xD6, mnemonic := .dec, format := .zpx, bytes := 2, cycles := 6, penalty := .none, cls := .rmw }
  | .dcpZpx => { opcode := 0xD7, mnemonic := .dcp, format := .zpx, bytes := 2, cycles := 6, penalty := .none, cls := .rmw }
  | .cld => { opcode := 0xD8, mnemonic := .cld, format := .imp, bytes := 1, cycles := 2, penalty := .none, cls := .imp }
  | .cmpAby => { opcode := 0xD9, mnemonic := .cmp, format := .aby, bytes := 3, cycles := 4, penalty := .page, cls := .read }
  | .nopImpDA => { opcode := 0xDA, mnemonic := .nop, format := .imp, bytes := 1, cycles := 2, penalty := .none, cls := .imp }
  | .dcpAby => { opcode := 0xDB, mnemonic := .dcp, format := .aby, bytes := 3, cycles := 7, penalty := .none, cls := .rmw }
  | .nopAbxDC => { opcode := 0xDC, mnemonic := .nop, format := .abx, bytes := 3, cycles := 4, penalty := .page, cls := .read }
  | .cmpAbx => { opcode := 0xDD, mnemonic := .cmp, format := .abx, bytes := 3, cycles := 4, penalty := .page, cls := .read }
  | .decAbx => { opcode := 0xDE, mnemonic := .dec, format := .abx, bytes := 3, cycles := 7, penalty := .none, cls := .rmw }
  | .dcpAbx => { opcode := 0xDF, mnemonic := .dcp, format := .abx, bytes := 3, cycles := 7, penalty := .none, cls := .rmw }
  | .cpxImm => { opcode := 0xE0, mnemonic := .cpx, format := .imm, bytes := 2, cycles := 2, penalty := .none, cls := .read }
  | .sbcIzx => { opcode := 0xE1, mnemonic := .sbc, format := .izx, bytes := 2, cycles := 6, penalty := .none, cls := .read }
  | .nopImmE2 => { opcode := 0xE2, mnemonic := .nop, format := .imm, bytes := 2, cycles := 2, penalty := .none, cls := .read }
  | .iscIzx => { opcode := 0xE3, mnemonic := .isc, format := .izx, bytes := 2, cycles := 8, penalty := .none, cls := .rmw }
  | .cpxZp => { opcode := 0xE4, mnemonic := .cpx, format := .zp, bytes := 2, cycles := 3, penalty := .none, cls := .read }
  | .sbcZp => { opcode := 0xE5, mnemonic := .sbc, format := .zp, bytes := 2, cycles := 3, penalty := .none, cls := .read }
  | .incZp => { opcode := 0xE6, mnemonic := .inc, format := .zp, bytes := 2, cycles := 5, penalty := .none, cls := .rmw }
  | .iscZp => { opcode := 0xE7, mnemonic := .isc, format := .zp, bytes := 2, cycles := 5, penalty := .none, cls := .rmw }
  | .inx => { opcode := 0xE8, mnemonic := .inx, format := .imp, bytes := 1, cycles := 2, penalty := .none, cls := .imp }
  | .sbcImm => { opcode := 0xE9, mnemonic := .sbc, format := .imm, bytes := 2, cycles := 2, penalty := .none, cls := .read }
  | .nop => { opcode := 0xEA, mnemonic := .nop, format := .imp, bytes := 1, cycles := 2, penalty := .none, cls := .imp }
  | .sbcImmEB => { opcode := 0xEB, mnemonic := .sbc, format := .imm, bytes := 2, cycles := 2, penalty := .none, cls := .read }
  | .cpxAbs => { opcode := 0xEC, mnemonic := .cpx, format := .abs, bytes := 3, cycles := 4, penalty := .none, cls := .read }
  | .sbcAbs => { opcode := 0xED, mnemonic := .sbc, format := .abs, bytes := 3, cycles := 4, penalty := .none, cls := .read }
  | .incAbs => { opcode := 0xEE, mnemonic := .inc, format := .abs, bytes := 3, cycles := 6, penalty := .none, cls := .rmw }
  | .iscAbs => { opcode := 0xEF, mnemonic := .isc, format := .abs, bytes := 3, cycles := 6, penalty := .none, cls := .rmw }
  | .beq => { opcode := 0xF0, mnemonic := .beq, format := .rel, bytes := 2, cycles := 2, penalty := .takenPage, cls := .branch }
  | .sbcIzy => { opcode := 0xF1, mnemonic := .sbc, format := .izy, bytes := 2, cycles := 5, penalty := .page, cls := .read }
  | .unkF2 => { opcode := 0xF2, mnemonic := .unk, format := .imp, bytes := 1, cycles := 2, penalty := .none, cls := .unk }
  | .iscIzy => { opcode := 0xF3, mnemonic := .isc, format := .izy, bytes := 2, cycles := 8, penalty := .none, cls := .rmw }
  | .nopZpxF4 => { opcode := 0xF4, mnemonic := .nop, format := .zpx, bytes := 2, cycles := 4, penalty := .none, cls := .read }
  | .sbcZpx => { opcode := 0xF5, mnemonic := .sbc, format := .zpx, bytes := 2, cycles := 4, penalty := .none, cls := .read }
  | .incZpx => { opcode := 0xF6, mnemonic := .inc, format := .zpx, bytes := 2, cycles := 6, penalty := .none, cls := .rmw }
  | .iscZpx => { opcode := 0xF7, mnemonic := .isc, format := .zpx, bytes := 2, cycles := 6, penalty := .none, cls := .rmw }
  | .sed => { opcode := 0xF8, mnemonic := .sed, format := .imp, bytes := 1, cycles := 2, penalty := .none, cls := .imp }
  | .sbcAby => { opcode := 0xF9, mnemonic := .sbc, format := .aby, bytes := 3, cycles := 4, penalty := .page, cls := .read }
  | .nopImpFA => { opcode := 0xFA, mnemonic := .nop, format := .imp, bytes := 1, cycles := 2, penalty := .none, cls := .imp }
  | .iscAby => { opcode := 0xFB, mnemonic := .isc, format := .aby, bytes := 3, cycles := 7, penalty := .none, cls := .rmw }
  | .nopAbxFC => { opcode := 0xFC, mnemonic := .nop, format := .abx, bytes := 3, cycles := 4, penalty := .page, cls := .read }
  | .sbcAbx => { opcode := 0xFD, mnemonic := .sbc, format := .abx, bytes := 3, cycles := 4, penalty := .page, cls := .read }
  | .incAbx => { opcode := 0xFE, mnemonic := .inc, format := .abx, bytes := 3, cycles := 7, penalty := .none, cls := .rmw }
  | .iscAbx => { opcode := 0xFF, mnemonic := .isc, format := .abx, bytes := 3, cycles := 7, penalty := .none, cls := .rmw }

/-- The opcode byte of an instruction (R96). -/
def Instr.opcode (i : Instr) : Byte := i.row.opcode

/-- Size in bytes (R94, R97: `BRK` has two). -/
def Instr.bytes (i : Instr) : Nat := i.row.bytes

/-- How many operand bytes follow the opcode byte (R90). -/
def Instr.operandCount (i : Instr) : Nat := i.bytes - 1

/-- Base cycle count (R94). -/
def Instr.cycles (i : Instr) : Nat := i.row.cycles

/-- Addressing mode (R91, R94). -/
def Instr.format (i : Instr) : Format := i.row.format

/-- Access class (R94). -/
def Instr.cls (i : Instr) : AccessClass := i.row.cls

/-- Mnemonic (R94). -/
def Instr.mnemonic (i : Instr) : Mnemonic := i.row.mnemonic

/-- Row 0x0x of the opcode matrix (R95). -/
def matrixRow0 : List Instr :=
  [.brk, .oraIzx, .unk02, .sloIzx, .nopZp04, .oraZp, .aslZp, .sloZp,
   .php, .oraImm, .aslAcc, .ancImm0B, .nopAbs, .oraAbs, .aslAbs, .sloAbs]

/-- Row 0x1x of the opcode matrix (R95). -/
def matrixRow1 : List Instr :=
  [.bpl, .oraIzy, .unk12, .sloIzy, .nopZpx14, .oraZpx, .aslZpx, .sloZpx,
   .clc, .oraAby, .nopImp1A, .sloAby, .nopAbx1C, .oraAbx, .aslAbx, .sloAbx]

/-- Row 0x2x of the opcode matrix (R95). -/
def matrixRow2 : List Instr :=
  [.jsr, .andIzx, .unk22, .rlaIzx, .bitZp, .andZp, .rolZp, .rlaZp,
   .plp, .andImm, .rolAcc, .ancImm2B, .bitAbs, .andAbs, .rolAbs, .rlaAbs]

/-- Row 0x3x of the opcode matrix (R95). -/
def matrixRow3 : List Instr :=
  [.bmi, .andIzy, .unk32, .rlaIzy, .nopZpx34, .andZpx, .rolZpx, .rlaZpx,
   .sec, .andAby, .nopImp3A, .rlaAby, .nopAbx3C, .andAbx, .rolAbx, .rlaAbx]

/-- Row 0x4x of the opcode matrix (R95). -/
def matrixRow4 : List Instr :=
  [.rti, .eorIzx, .unk42, .sreIzx, .nopZp44, .eorZp, .lsrZp, .sreZp,
   .pha, .eorImm, .lsrAcc, .alrImm, .jmpAbs, .eorAbs, .lsrAbs, .sreAbs]

/-- Row 0x5x of the opcode matrix (R95). -/
def matrixRow5 : List Instr :=
  [.bvc, .eorIzy, .unk52, .sreIzy, .nopZpx54, .eorZpx, .lsrZpx, .sreZpx,
   .cli, .eorAby, .nopImp5A, .sreAby, .nopAbx5C, .eorAbx, .lsrAbx, .sreAbx]

/-- Row 0x6x of the opcode matrix (R95). -/
def matrixRow6 : List Instr :=
  [.rts, .adcIzx, .unk62, .rraIzx, .nopZp64, .adcZp, .rorZp, .rraZp,
   .pla, .adcImm, .rorAcc, .arrImm, .jmpInd, .adcAbs, .rorAbs, .rraAbs]

/-- Row 0x7x of the opcode matrix (R95). -/
def matrixRow7 : List Instr :=
  [.bvs, .adcIzy, .unk72, .rraIzy, .nopZpx74, .adcZpx, .rorZpx, .rraZpx,
   .sei, .adcAby, .nopImp7A, .rraAby, .nopAbx7C, .adcAbx, .rorAbx, .rraAbx]

/-- Row 0x8x of the opcode matrix (R95). -/
def matrixRow8 : List Instr :=
  [.nopImm80, .staIzx, .nopImm82, .saxIzx, .styZp, .staZp, .stxZp, .saxZp,
   .dey, .nopImm89, .txa, .unk8B, .styAbs, .staAbs, .stxAbs, .saxAbs]

/-- Row 0x9x of the opcode matrix (R95). -/
def matrixRow9 : List Instr :=
  [.bcc, .staIzy, .unk92, .unk93, .styZpx, .staZpx, .stxZpy, .saxZpy,
   .tya, .staAby, .txs, .unk9B, .unk9C, .staAbx, .unk9E, .unk9F]

/-- Row 0xAx of the opcode matrix (R95). -/
def matrixRowA : List Instr :=
  [.ldyImm, .ldaIzx, .ldxImm, .laxIzx, .ldyZp, .ldaZp, .ldxZp, .laxZp,
   .tay, .ldaImm, .tax, .unkAB, .ldyAbs, .ldaAbs, .ldxAbs, .laxAbs]

/-- Row 0xBx of the opcode matrix (R95). -/
def matrixRowB : List Instr :=
  [.bcs, .ldaIzy, .unkB2, .laxIzy, .ldyZpx, .ldaZpx, .ldxZpy, .laxZpy,
   .clv, .ldaAby, .tsx, .lasAby, .ldyAbx, .ldaAbx, .ldxAby, .laxAby]

/-- Row 0xCx of the opcode matrix (R95). -/
def matrixRowC : List Instr :=
  [.cpyImm, .cmpIzx, .nopImmC2, .dcpIzx, .cpyZp, .cmpZp, .decZp, .dcpZp,
   .iny, .cmpImm, .dex, .axsImm, .cpyAbs, .cmpAbs, .decAbs, .dcpAbs]

/-- Row 0xDx of the opcode matrix (R95). -/
def matrixRowD : List Instr :=
  [.bne, .cmpIzy, .unkD2, .dcpIzy, .nopZpxD4, .cmpZpx, .decZpx, .dcpZpx,
   .cld, .cmpAby, .nopImpDA, .dcpAby, .nopAbxDC, .cmpAbx, .decAbx, .dcpAbx]

/-- Row 0xEx of the opcode matrix (R95). -/
def matrixRowE : List Instr :=
  [.cpxImm, .sbcIzx, .nopImmE2, .iscIzx, .cpxZp, .sbcZp, .incZp, .iscZp,
   .inx, .sbcImm, .nop, .sbcImmEB, .cpxAbs, .sbcAbs, .incAbs, .iscAbs]

/-- Row 0xFx of the opcode matrix (R95). -/
def matrixRowF : List Instr :=
  [.beq, .sbcIzy, .unkF2, .iscIzy, .nopZpxF4, .sbcZpx, .incZpx, .iscZpx,
   .sed, .sbcAby, .nopImpFA, .iscAby, .nopAbxFC, .sbcAbx, .incAbx, .iscAbx]

/-- The opcode matrix of R95: the row is the opcode's high nibble, the column its low nibble. -/
def opcodeMatrix : List (List Instr) :=
  [matrixRow0, matrixRow1, matrixRow2, matrixRow3, matrixRow4, matrixRow5, matrixRow6, matrixRow7,
   matrixRow8, matrixRow9, matrixRowA, matrixRowB, matrixRowC, matrixRowD, matrixRowE, matrixRowF]

/-- The decoder: the opcode byte alone, looked up in the matrix (R90, R93, R95). Total: the two defaults are never taken,
since both lists have sixteen entries. -/
def decodeOpcode (b : Byte) : Instr :=
  ((opcodeMatrix.getD (b.toNat / 16) []).getD (b.toNat % 16) .nop)

/-- An instruction with its operand bytes: what an assembler would write (R91). -/
structure Asm where
  instr : Instr
  operands : List Byte
  deriving DecidableEq, Repr

/-- Why a list of bytes holds no whole instruction. No opcode is refused (R93); a list may end too early. -/
inductive DecodeError where
  /-- There is no opcode byte. -/
  | noOpcode
  /-- The instruction has more operand bytes than the list holds. -/
  | missingOperand (i : Instr)
  deriving DecidableEq, Repr

/-- Decode the instruction at the head of a list of bytes, in rising addresses: the instruction with its operand bytes
`b1`, `b2` of R91, and the bytes after it. -/
def decode : List Byte → Except DecodeError (Asm × List Byte)
  | [] => .error .noOpcode
  | b :: rest =>
    let i := decodeOpcode b
    if i.operandCount ≤ rest.length then
      .ok ({ instr := i, operands := rest.take i.operandCount }, rest.drop i.operandCount)
    else .error (.missingOperand i)

/-- The encoder: the opcode byte, then the operand bytes, low byte first where there are two (R63, R91). -/
def encode (c : Asm) : List Byte := c.instr.opcode :: c.operands

/-- The bytes of a number whose bit 0 is bit 0 of the first byte: the table's numbering of an instruction's bits. -/
def bytesOfWord : Nat → Nat → List Byte
  | 0, _ => []
  | n + 1, w => BitVec.ofNat 8 w :: bytesOfWord n (w / 256)

/-- The longest instruction has three bytes (R90). -/
def maxInstrBytes : Nat := 3

/-- The bytes the hardware stores for an instruction whose low `nbits` bits are `w` and whose other bits are 0. -/
def tableBytes (nbits w : Nat) : List Byte := bytesOfWord maxInstrBytes (w % 2 ^ nbits)

/-- The instruction the decoder reads from a word numbered as spec/opcode_table.json numbers it. -/
def decodeTableWord (nbits w : Nat) : Option Instr :=
  match decode (tableBytes nbits w) with
  | .ok (c, _) => some c.instr
  | .error _ => none

end Sys2Proof
end

