-- ==== Sys2Proof/Machine/Clock.lean ====
section
/-! DEFINITION. `Clock()`, one bus cycle of SEQ (41_sequencer.md R170 to R174), the bus access it makes (R65), and what a
whole-instruction step starts with. -/

namespace Sys2Proof.Machine

/-- `exec()` of a mnemonic of class `imp` or `unk` (R174). -/
def impFnOf : Mnemonic → Option ImpFn
  | .tax => some .tax
  | .tay => some .tay
  | .txa => some .txa
  | .tya => some .tya
  | .tsx => some .tsx
  | .txs => some .txs
  | .inx => some .inx
  | .iny => some .iny
  | .dex => some .dex
  | .dey => some .dey
  | .clc => some .clc
  | .sec => some .sec
  | .cli => some .cli
  | .sei => some .sei
  | .clv => some .clv
  | .cld => some .cld
  | .sed => some .sed
  | .nop => some .nop
  | .unk => some .unk
  | _ => none

/-- `exec()` of a mnemonic of class `acc` (R174). -/
def accFnOf : Mnemonic → Option ImpFn
  | .asl => some .aslA
  | .lsr => some .lsrA
  | .rol => some .rolA
  | .ror => some .rorA
  | _ => none

/-- `exec(m)` of a mnemonic of class `read` (R174). -/
def readFnOf : Mnemonic → Option ReadFn
  | .lda => some .lda
  | .ldx => some .ldx
  | .ldy => some .ldy
  | .adc => some .adc
  | .sbc => some .sbc
  | .and => some .and
  | .ora => some .ora
  | .eor => some .eor
  | .bit => some .bit
  | .cmp => some .cmp
  | .cpx => some .cpx
  | .cpy => some .cpy
  | .lax => some .lax
  | .las => some .las
  | .anc => some .anc
  | .alr => some .alr
  | .arr => some .arr
  | .axs => some .axs
  | .nop => some .nop
  | _ => none

/-- `val()` of a mnemonic of class `write` (R174). -/
def storeFnOf : Mnemonic → Option StoreFn
  | .sta => some .sta
  | .stx => some .stx
  | .sty => some .sty
  | .sax => some .sax
  | _ => none

/-- `exec(m)` of a mnemonic of class `rmw` (R174). -/
def rmwFnOf : Mnemonic → Option RmwFn
  | .inc => some .inc
  | .dec => some .dec
  | .asl => some .asl
  | .lsr => some .lsr
  | .rol => some .rol
  | .ror => some .ror
  | .slo => some .slo
  | .rla => some .rla
  | .sre => some .sre
  | .rra => some .rra
  | .dcp => some .dcp
  | .isc => some .isc
  | _ => none

/-- `cond()` of a mnemonic of class `branch` (R174). -/
def condOf : Mnemonic → Option Cond
  | .bpl => some .bpl
  | .bmi => some .bmi
  | .bvc => some .bvc
  | .bvs => some .bvs
  | .bcc => some .bcc
  | .bcs => some .bcs
  | .bne => some .bne
  | .beq => some .beq
  | _ => none

/-- `val()` of a mnemonic of class `push` (R174). -/
def pushValOf : Mnemonic → Option PushVal
  | .pha => some .a
  | .php => some .statusBreak
  | _ => none

/-- `load(m)` of a mnemonic of class `pull` (R174). -/
def loadFnOf : Mnemonic → Option LoadFn
  | .pla => some .a
  | .plp => some .p
  | _ => none

/-- The read-class sequence of a format (R181, R182, R185, R188, R192, R195, R198). -/
def readSequence (f : Format) (e : ReadFn) : Option (List MicroOp) :=
  match f with
  | .imm => some (seqImm e)
  | .zp => some (seqZpRead e)
  | .zpx => some (seqZpIdxRead .x e)
  | .zpy => some (seqZpIdxRead .y e)
  | .abs => some (seqAbsRead e)
  | .abx => some (seqAbsIdxRead .x e)
  | .aby => some (seqAbsIdxRead .y e)
  | .izx => some (seqIzxRead e)
  | .izy => some (seqIzyRead e)
  | .imp | .acc | .ind | .rel => none

/-- The write-class sequence of a format (R183, R186, R189, R193, R196, R199). -/
def writeSequence (f : Format) (v : StoreFn) : Option (List MicroOp) :=
  match f with
  | .zp => some (seqZpWrite v)
  | .zpx => some (seqZpIdxWrite .x v)
  | .zpy => some (seqZpIdxWrite .y v)
  | .abs => some (seqAbsWrite v)
  | .abx => some (seqAbsIdxWrite .x v)
  | .aby => some (seqAbsIdxWrite .y v)
  | .izx => some (seqIzxWrite v)
  | .izy => some (seqIzyWrite v)
  | .imp | .acc | .imm | .ind | .rel => none

/-- The rmw-class sequence of a format (R184, R187, R190, R194, R197, R200). -/
def rmwSequence (f : Format) (e : RmwFn) : Option (List MicroOp) :=
  match f with
  | .zp => some (seqZpRmw e)
  | .zpx => some (seqZpIdxRmw .x e)
  | .zpy => some (seqZpIdxRmw .y e)
  | .abs => some (seqAbsRmw e)
  | .abx => some (seqAbsIdxRmw .x e)
  | .aby => some (seqAbsIdxRmw .y e)
  | .izx => some (seqIzxRmw e)
  | .izy => some (seqIzyRmw e)
  | .imp | .acc | .imm | .ind | .rel => none

/-- The sequence of a row, from its access class, format and mnemonic alone (R173, R180 to R208). `none` is a row for
which no sequence is defined. -/
def rowSequence (r : OpcodeRow) : Option (List MicroOp) :=
  match r.cls with
  | .imp | .unk => (impFnOf r.mnemonic).map seqImp
  | .acc => (accFnOf r.mnemonic).map seqImp
  | .read => (readFnOf r.mnemonic).bind (readSequence r.format)
  | .write => (storeFnOf r.mnemonic).bind (writeSequence r.format)
  | .rmw => (rmwFnOf r.mnemonic).bind (rmwSequence r.format)
  | .branch => (condOf r.mnemonic).map seqBranch
  | .jmp => some seqJmp
  | .jmpind => some seqJmpInd
  | .jsr => some seqJsr
  | .rts => some seqRts
  | .rti => some seqRti
  | .brk => some seqBrk
  | .push => (pushValOf r.mnemonic).map seqPush
  | .pull => (loadFnOf r.mnemonic).map seqPull

/-- `Decode(opcode)` (R173). The error is the `Fatal(ConfigError)` of R93 and R401, "unreachable with this spec's table". -/
def decodeSequence (opcode : Byte) : Except Fault (List MicroOp) :=
  match rowSequence (decodeOpcode opcode).row with
  | some ops => .ok ops
  | none => .error .configError

/-- Step 1 of `Clock()`: sample the NMI input (R171, R411). -/
def SeqState.sampleNmi (st : SeqState) : SeqState :=
  { st with nmiPending := st.nmiPending || (st.nmiLine && !st.nmiPrev), nmiPrev := st.nmiLine }

/-- Execute the free operations at the head of a queue (R171's loop, R172). -/
def drainFreeOps : List MicroOp → SeqState → SeqState
  | .setPcAd :: rest, st => drainFreeOps rest { st with pc := cat st.adh st.adl, q := rest }
  | _, st => st

/-- The free tail a sequence may have left runs at the start of the next `Clock()` (R172, R451). -/
def SeqState.drainFree (st : SeqState) : SeqState := drainFreeOps st.q st

/-- What an empty queue starts (R171, R413): NMI before IRQ before the next instruction. -/
inductive Poll where
  | nmi
  | irq
  | opcode
  deriving DecidableEq, Repr

/-- The tests of R171's idle branch, in its order. -/
def SeqState.poll (st : SeqState) : Poll :=
  if st.nmiPending then .nmi
  else if st.irqLine && !(st.flag .i) then .irq
  else .opcode

/-- The idle branch of R171: fill the empty queue. -/
def SeqState.dispatch (p : Params) (st : SeqState) : Except Fault SeqState :=
  match st.poll with
  | .nmi => .ok { st with nmiPending := false, q := interruptSequence nmiVector }
  | .irq => .ok { st with q := interruptSequence irqVector }
  | .opcode =>
    match st.memRead p st.pc with
    | .ok b =>
      match decodeSequence b with
      | .ok ops => .ok { st with q := ops }
      | .error f => .error f
    | .error f => .error f

/-- Step 2 of `Clock()` once the free tail has run: fill the queue if it is empty. -/
def SeqState.refill (p : Params) (st : SeqState) : Except Fault SeqState :=
  match st.q with
  | [] => st.dispatch p
  | _ :: _ => .ok st

/-- Pop the next micro-operation and execute it. -/
def SeqState.popRun (p : Params) (st : SeqState) : Except Fault SeqState :=
  match st.q with
  | [] => .ok st
  | op :: rest => runOp p op { st with q := rest }

/-- What precedes the cycle-consuming operation of a `Clock()`: the NMI sample and the free tail. -/
def SeqState.ready (st : SeqState) : SeqState := st.sampleNmi.drainFree

/-- `Clock()` (R171): one cycle of SEQ. -/
def SeqState.clock (p : Params) (st : SeqState) : Except Fault SeqState :=
  match st.ready.refill p with
  | .ok st' => st'.popRun p
  | .error f => .error f

/-- `n` calls of `Clock()`. -/
def SeqState.clocks (p : Params) : Nat → SeqState → Except Fault SeqState
  | 0, st => .ok st
  | n + 1, st =>
    match st.clock p with
    | .ok st' => SeqState.clocks p n st'
    | .error f => .error f

/-- A bus access with the byte that crosses the bus. -/
inductive BusAccess where
  | read (a : Addr) (data : Byte)
  | write (a : Addr) (data : Byte)
  deriving DecidableEq, Repr

/-- A request seen on the reference bus. -/
def BusRequest.access (st : SeqState) : BusRequest → Option BusAccess
  | .idle => none
  | .read a => some (.read a (st.peek a))
  | .write a v => some (.write a v)

/-- The one bus access of the next `Clock()` (R65, R170, R460): with the queue empty the read of `PC` that starts an
instruction or an interrupt sequence, otherwise that of the operation at the queue's head. -/
def SeqState.busAccess (p : Params) (st : SeqState) : Option BusAccess :=
  let st := st.ready
  match st.q with
  | [] => some (.read st.pc (st.peek st.pc))
  | op :: rest => (op.request p.decimalMode { st with q := rest }).access { st with q := rest }

/-- The bus accesses of the next `n` calls of `Clock()`, first first; the list ends at a fatal condition. -/
def SeqState.busTrace (p : Params) : Nat → SeqState → List BusAccess
  | 0, _ => []
  | n + 1, st =>
    match st.clock p with
    | .ok st' => (st.busAccess p).toList ++ SeqState.busTrace p n st'
    | .error _ => []

/-- What a step that runs SEQ to its next instruction boundary does. -/
inductive Start where
  /-- finish the sequence in flight -/
  | inFlight
  /-- take the interrupt with this vector -/
  | interrupt (v : Addr)
  /-- run the instruction whose opcode byte has been read -/
  | instruction (i : Instr)
  /-- the opcode read is fatal -/
  | fault (f : Fault)
  deriving DecidableEq, Repr

/-- The decision of `Clock()` at the state its NMI sample and free tail leave: R171 once for a whole sequence. -/
def SeqState.start (p : Params) (st : SeqState) : Start :=
  match st.q with
  | _ :: _ => .inFlight
  | [] =>
    match st.poll with
    | .nmi => .interrupt nmiVector
    | .irq => .interrupt irqVector
    | .opcode =>
      match st.memRead p st.pc with
      | .ok b => .instruction (decodeOpcode b)
      | .error f => .fault f

/-- The state a started interrupt leaves its request in: an NMI's is cleared (R171, R411), an IRQ has none (R412). -/
def SeqState.acknowledge (st : SeqState) : SeqState := { st with nmiPending := false }

/-- Where the next opcode is fetched: at `ADH:ADL` where a free tail is still to move it to `PC` (R451), else at `PC`. -/
def SeqState.fetchAddr (st : SeqState) : Addr :=
  match st.q with
  | [.setPcAd] => cat st.adh st.adl
  | _ => st.pc

/-- Store bytes at rising addresses, wrapping (R31). -/
def SeqState.pokes (st : SeqState) (a : Addr) : List Byte → SeqState
  | [] => st
  | b :: rest => (st.poke a b).pokes (a + 1) rest

/-- Place an instruction's bytes where the next opcode is fetched, and let nothing come before that fetch: an unfinished
sequence is dropped (a load from outside the machine stands for it), and no interrupt is due. -/
def SeqState.placeBytes (st : SeqState) (bytes : List Byte) : SeqState :=
  let a := st.fetchAddr
  let st' := st.pokes a bytes
  { st' with
    q := if st.q = [.setPcAd] then st.q else []
    nmiPending := false
    nmiPrev := st.nmiLine
    irqLine := st.irqLine && st.flag .i }

end Sys2Proof.Machine
end

