-- ==== Sys2Proof/Machine/Settle.lean ====
section
/-! DEFINITION. SIM's settle algorithm (40_switch_network.md R125 to R133). -/

namespace Sys2Proof.Machine

/-- A node that stands for an id no node has. -/
def Node.absent : Node :=
  { state := false, pullUp := false, pullDown := false, floating := true, gates := [], terminals := [], name := none }

/-- A transistor that stands for a position the array lacks: never on. -/
def Transistor.absent : Transistor := { name := "", gate := 0, t1 := 0, t2 := 0, on := false }

/-- `node[i]` -/
def SimState.node (sim : SimState) (i : Nat) : Node := sim.nodes.getD i Node.absent

/-- `trans[t]` -/
def SimState.trans (sim : SimState) (t : Nat) : Transistor := sim.transistors.getD t Transistor.absent

/-- `n` is `gnd` or `pwr` (R23). -/
def SimState.isRail (sim : SimState) (n : Nat) : Bool := n == sim.gnd || n == sim.pwr

/-- `node[i].state <- v` -/
def SimState.setState (sim : SimState) (i : Nat) (v : Bool) : SimState :=
  { sim with nodes := sim.nodes.modify i (fun n => { n with state := v }) }

/-- `trans[t].on <- v` -/
def SimState.setOn (sim : SimState) (t : Nat) (v : Bool) : SimState :=
  { sim with transistors := sim.transistors.modify t (fun r => { r with on := v }) }

/-- `enqueue(L, n)` (R125): at the end, unless `n` is in `L` or is a rail. -/
def SimState.enqueue (sim : SimState) (l : List Nat) (n : Nat) : List Nat :=
  if l.contains n || sim.isRail n then l else l ++ [n]

/-- The other end of a transistor (R128). -/
def Transistor.other (t : Transistor) (m : Nat) : Nat := if t.t1 = m then t.t2 else t.t1

/-- `Add(m)` of R128: depth-first preorder over the `terminals` lists, not through a rail. Each nested call that does not
return at once has put a new node into the group, so `nodeCount + 1` levels are enough (R160). -/
def SimState.addToGroup (sim : SimState) : Nat → List Nat → Nat → List Nat
  | 0, group, _ => group
  | fuel + 1, group, m =>
    if group.contains m then group
    else if sim.isRail m then group ++ [m]
    else
      (sim.node m).terminals.foldl
        (fun g t => if (sim.trans t).on then sim.addToGroup fuel g ((sim.trans t).other m) else g)
        (group ++ [m])

/-- `BuildGroup(n)` (R128). -/
def SimState.buildGroup (sim : SimState) (n : Nat) : List Nat :=
  sim.addToGroup (sim.nodes.length + 1) [] n

/-- The scan of R130: the first node at which a test fires decides; the tests at one node are `pullUp`, `pullDown`,
`state`, in that order (D2). -/
def SimState.scanGroup (sim : SimState) : List Nat → Bool
  | [] => false
  | g :: rest =>
    let n := sim.node g
    if n.pullUp then true
    else if n.pullDown then false
    else if n.state then true
    else sim.scanGroup rest

/-- `GroupValue(group)` (R130): ground, then power, then the scan. -/
def SimState.groupValue (sim : SimState) (group : List Nat) : Bool :=
  if group.contains sim.gnd then false
  else if group.contains sim.pwr then true
  else sim.scanGroup group

/-- SIM with the `next` worklist of the round (R26). -/
structure Round where
  sim : SimState
  next : List Nat
  deriving DecidableEq, Repr

/-- What turning one transistor on or off does (R131). -/
def Round.switch (v : Bool) (r : Round) (t : Nat) : Round :=
  let sim := r.sim.setOn t v
  { sim := sim
    next := sim.enqueue (sim.enqueue r.next (sim.trans t).t1) (sim.trans t).t2 }

/-- `UpdateNode(g, v)` (R131). -/
def Round.updateNode (v : Bool) (r : Round) (g : Nat) : Round :=
  if r.sim.isRail g then r
  else if (r.sim.node g).state == v then r
  else
    (r.sim.node g).gates.foldl (Round.switch v) { r with sim := r.sim.setState g v }

/-- `RecalcNode(n)` (R127). -/
def Round.recalcNode (r : Round) (n : Nat) : Round :=
  if r.sim.isRail n then r
  else
    let group := r.sim.buildGroup n
    group.foldl (Round.updateNode (r.sim.groupValue group)) r

/-- One round: every node of the current worklist in order, each seeing the writes of those before it (R125). -/
def SimState.round (sim : SimState) (cur : List Nat) : Round :=
  cur.foldl Round.recalcNode { sim := sim, next := [] }

/-- The rounds of R125 and R126: `cap` of them may still run; a worklist left after them is `Fatal(NonConvergence)`. -/
def SimState.settleRounds : Nat → SimState → List Nat → Except Fault SimState
  | _, sim, [] => .ok sim
  | 0, _, _ :: _ => .error .nonConvergence
  | cap + 1, sim, n :: cur =>
    let r := sim.round (n :: cur)
    SimState.settleRounds cap r.sim r.next

/-- The worklist a list of seeds makes: duplicates and rails dropped (R125, D23). -/
def SimState.seedList (sim : SimState) (seeds : List Nat) : List Nat := seeds.foldl sim.enqueue []

/-- `Settle(seeds)` (R125). -/
def SimState.settle (p : Params) (sim : SimState) (seeds : List Nat) : Except Fault SimState :=
  SimState.settleRounds p.settleRoundCap sim (sim.seedList seeds)

/-- How many rounds a settle takes (R461: "bounded ... and otherwise unobservable"; the test vectors state it). -/
def SimState.roundCount : Nat → SimState → List Nat → Nat
  | _, _, [] => 0
  | 0, _, _ :: _ => 0
  | cap + 1, sim, n :: cur =>
    let r := sim.round (n :: cur)
    SimState.roundCount cap r.sim r.next + 1

end Sys2Proof.Machine
end

