-- ==== Sys2Proof/Machine/Pins.lean ====
section
/-! DEFINITION. SIM's public surface: pins, clocking, bus synchronisation, initialisation (40_switch_network.md R140 to
R155; 70_reset_and_hazards.md R441, R442). -/

namespace Sys2Proof.Machine

/-- `Lookup(name)` (R142): the id of the node with that name, or `Fatal(ConfigError)`. -/
def SimState.lookup (sim : SimState) (name : String) : Except Fault Nat :=
  match sim.nodes.findIdx? (fun n => n.name == some name) with
  | some i => .ok i
  | none => .error .configError

/-- `SetNode(n, level)` (R140): no settle. -/
def SimState.setNode (sim : SimState) (i : Nat) (l : Level) : SimState :=
  { sim with
    nodes := sim.nodes.modify i (fun n =>
      match l with
      | .high => { n with pullUp := true, pullDown := false, floating := false }
      | .low => { n with pullUp := false, pullDown := true, floating := false }
      | .undriven => { n with pullUp := false, pullDown := false, floating := false }) }

/-- `WriteBit(name, level)` (R140). -/
def SimState.writeBit (p : Params) (sim : SimState) (name : String) (l : Level) : Except Fault SimState := do
  let n ← sim.lookup name
  (sim.setNode n l).settle p [n]

/-- `ReadBit(name)` (R143). -/
def SimState.readBit (sim : SimState) (name : String) : Except Fault Bool := do
  let n ← sim.lookup name
  .ok (sim.node n).state

/-- The names `prefix0` to `prefix<n-1>` (R143). -/
def bitNames (base : String) (n : Nat) : List String := (List.range n).map (fun k => base ++ toString k)

/-- The number whose bit `k` is the state of the `k`-th named node (R143). -/
def SimState.readNames (sim : SimState) : List String → Except Fault Nat
  | [] => .ok 0
  | name :: rest => do
    let b ← sim.readBit name
    let r ← sim.readNames rest
    .ok (b.toNat + 2 * r)

/-- `ReadBits(prefix, n)` (R143). -/
def SimState.readBits (sim : SimState) (base : String) (n : Nat) : Except Fault Nat :=
  sim.readNames (bitNames base n)

/-- `ReadAddressBus()` (R143). -/
def SimState.readAddressBus (sim : SimState) : Except Fault Addr := do
  let v ← sim.readBits "ab" 16
  .ok (BitVec.ofNat 16 v)

/-- `ReadDataBus()` (R143). -/
def SimState.readDataBus (sim : SimState) : Except Fault Byte := do
  let v ← sim.readBits "db" 8
  .ok (BitVec.ofNat 8 v)

/-- The ids of the named nodes, in order. -/
def SimState.lookups (sim : SimState) : List String → Except Fault (List Nat)
  | [] => .ok []
  | name :: rest => do
    let n ← sim.lookup name
    let ns ← sim.lookups rest
    .ok (n :: ns)

/-- `high` for a 1 bit, `low` for a 0 bit (R144). -/
def levelOf (b : Bool) : Level := if b then .high else .low

/-- Force nodes to the bits of a value, bit 0 first; no settle. -/
def SimState.setNodes (sim : SimState) (v : Nat) : List Nat → SimState
  | [] => sim
  | n :: rest => (sim.setNode n (levelOf (v.testBit 0))).setNodes (v / 2) rest

/-- `WriteBits(prefix, n, value)` (R144): all the bits, then one settle seeded in bit order. -/
def SimState.writeBits (p : Params) (sim : SimState) (base : String) (n v : Nat) : Except Fault SimState := do
  let ns ← sim.lookups (bitNames base n)
  (sim.setNodes v ns).settle p ns

/-- `MemRead` on SIM's bus (R9, R62). -/
def SimState.memRead (p : Params) (sim : SimState) (a : Addr) : Except Fault Byte :=
  if a.toNat < p.busSize then .ok (sim.mem.read a.toNat) else .error (.outOfRange a)

/-- `MemWrite` on SIM's bus (R9, R62). -/
def SimState.memWrite (p : Params) (sim : SimState) (a : Addr) (v : Byte) : Except Fault SimState :=
  if a.toNat < p.busSize then .ok { sim with mem := sim.mem.write a.toNat v } else .error (.outOfRange a)

/-- `BusReadSync()` (R151): after `clk0` has gone low. -/
def SimState.busReadSync (p : Params) (sim : SimState) : Except Fault SimState := do
  let rw ← sim.readBit "rw"
  if rw then
    let a ← sim.readAddressBus
    let d ← sim.memRead p a
    sim.writeBits p "db" 8 d.toNat
  else .ok sim

/-- `BusWriteSync()` (R151): after `clk0` has gone high. -/
def SimState.busWriteSync (p : Params) (sim : SimState) : Except Fault SimState := do
  let rw ← sim.readBit "rw"
  if rw then .ok sim
  else
    let a ← sim.readAddressBus
    let d ← sim.readDataBus
    sim.memWrite p a d

/-- `HalfClock()` (R150). -/
def SimState.halfClock (p : Params) (sim : SimState) : Except Fault SimState := do
  let c ← sim.readBit "clk0"
  if c then
    let sim ← sim.writeBit p "clk0" .low
    sim.busReadSync p
  else
    let sim ← sim.writeBit p "clk0" .high
    sim.busWriteSync p

/-- `n` calls of `HalfClock()`. -/
def SimState.halfClocks (p : Params) : Nat → SimState → Except Fault SimState
  | 0, sim => .ok sim
  | n + 1, sim => do
    let sim ← sim.halfClock p
    SimState.halfClocks p n sim

/-- SIM's `Clock()`: two half-clocks (R150). -/
def SimState.clock (p : Params) (sim : SimState) : Except Fault SimState := SimState.halfClocks p 2 sim

/-- `ExecuteCycles(count)`: `count` clocks (R150). -/
def SimState.executeCycles (p : Params) (n : Nat) (sim : SimState) : Except Fault SimState :=
  SimState.halfClocks p (2 * n) sim

/-- Force a list of pins, in order, without a settle (R441). -/
def SimState.forcePins (sim : SimState) : List (String × Level) → Except Fault SimState
  | [] => .ok sim
  | (name, l) :: rest => do
    let n ← sim.lookup name
    (sim.setNode n l).forcePins rest

/-- The six pins `Init()` forces, in the order of R441. -/
def initPins : List (String × Level) :=
  [("res", .low), ("clk0", .low), ("rdy", .high), ("so", .low), ("irq", .high), ("nmi", .high)]

/-- `n` clock pulses without bus synchronisation (R441). -/
def SimState.pulses (p : Params) : Nat → SimState → Except Fault SimState
  | 0, sim => .ok sim
  | n + 1, sim => do
    let sim ← sim.writeBit p "clk0" .high
    let sim ← sim.writeBit p "clk0" .low
    SimState.pulses p n sim

/-- `Init()` (R441). Its callback has no effect (R27, D9) and is left out. -/
def SimState.init (p : Params) (sim : SimState) : Except Fault SimState := do
  let sim ← sim.forcePins initPins
  let sim ← sim.settle p (List.range sim.nodes.length)
  let sim ← SimState.pulses p 8 sim
  sim.writeBit p "res" .high

/-- `RunStartProgram()` (R442): nine full cycles and one half-clock, nineteen half-clocks in all. -/
def SimState.runStartProgram (p : Params) (sim : SimState) : Except Fault SimState := do
  let sim ← SimState.executeCycles p 9 sim
  sim.halfClock p

/-- SIM's register readers (R145): `ReadBits` over the named internal nodes `NET` supplies. -/
structure SimRegs where
  a : Byte
  x : Byte
  y : Byte
  s : Byte
  p : Byte
  pc : Addr
  deriving DecidableEq, Repr

/-- `SimA, SimX, SimY, SimS, SimP, SimPC` (R145). -/
def SimState.readRegs (sim : SimState) : Except Fault SimRegs := do
  let a ← sim.readNames sim.readers.a
  let x ← sim.readNames sim.readers.x
  let y ← sim.readNames sim.readers.y
  let s ← sim.readNames sim.readers.s
  let p ← sim.readNames sim.readers.p
  let pc ← sim.readNames sim.readers.pc
  .ok { a := BitVec.ofNat 8 a, x := BitVec.ofNat 8 x, y := BitVec.ofNat 8 y, s := BitVec.ofNat 8 s,
        p := BitVec.ofNat 8 p, pc := BitVec.ofNat 16 pc }

/-- `ComputeNodeHash()` (R146): uninterpreted, reads state and changes none. -/
def SimState.computeNodeHash (sim : SimState) : Nat :=
  Config.nodeHash (sim.nodes.map (fun n => (n.state, n.pullUp, n.pullDown, n.floating)))

/-- `ComputeTransistorHash()` (R146). -/
def SimState.computeTransistorHash (sim : SimState) : Nat :=
  Config.transistorHash (sim.transistors.map (·.on))

end Sys2Proof.Machine
end

