-- ==== Sys2Proof/Machine/HostOps.lean ====
section
/-! DEFINITION. What each call of the host does (70_reset_and_hazards.md R443, R455, R456; 10_state.md R37;
92_eei_decisions.md D24). -/

namespace Sys2Proof.Machine

/-- SIM's outcome as the machine's. -/
def State.ofSim (s : State) (r : Except Fault SimState) : Result :=
  match r with
  | .ok sim => .next (s.setSim sim)
  | .error f => .fault f

/-- What a call that may step SIM leaves of the lifecycle (D24). A SIM still as it was has not been stepped: `ExecuteCycles(0)`
and `WriteBits` of no bit make no step (R150, R144), and a settle of no node "changes nothing" (R133 (d)), so it is still in
the state of R440 that `Init()` starts from (log entry 15). -/
def SimState.noteStep (before after : SimState) : SimState :=
  match after.phase with
  | .fresh => if after = before then after else { after with phase := .stepped }
  | .stepped | .booted => after

/-- A call that may step SIM (R2: "`HalfClock()`/`Clock()`/pin writes"). -/
def State.stepSim (s : State) (r : Except Fault SimState) : Result :=
  s.ofSim (r.map s.sim.noteStep)

/-- Whether a name is that of a rail: such a pin write "is outside the contract ... and a model refuses it" (R140). A
missing name is `Fatal(ConfigError)` instead (R142). -/
def SimState.namesRail (sim : SimState) (name : String) : Bool :=
  match sim.lookup name with
  | .ok n => sim.isRail n
  | .error _ => false

/-- A reader changes nothing and is fatal on a missing name (R142, R143). -/
def State.readSim {α : Type} (s : State) (r : Except Fault α) : Result :=
  match r with
  | .ok _ => .next s
  | .error f => .fault f

/-- `Setup(NET)` on SIM's bus (R120, R123). -/
def State.simSetup (s : State) (net : Net) : Result :=
  match setup net s.sim.mem with
  | some sim => .next (s.setSim sim)
  | none => .fault .configError

/-- `Init()`: only on the SIM `Setup` left (R441, D24). -/
def State.simInit (s : State) : Result :=
  match s.sim.phase with
  | .fresh => s.ofSim ((s.sim.init s.params).map (fun sim => { sim with phase := .booted }))
  | .stepped | .booted => .refused .simInitOutsideContract

/-- `RunStartProgram()`: only after `Init()` (R442, D24). -/
def State.simRunStartProgram (s : State) : Result :=
  match s.sim.phase with
  | .booted => s.ofSim (s.sim.runStartProgram s.params)
  | .fresh | .stepped => .refused .simStartBeforeInit

/-- `Settle(seeds)` called by the host. A seed that names no node is a missing node (R401). -/
def State.simSettle (s : State) (seeds : List Nat) : Result :=
  if seeds.all (fun n => decide (n < s.sim.nodes.length)) then s.stepSim (s.sim.settle s.params seeds)
  else .fault .configError

/-- `WriteBit` called by the host (R140, D24). -/
def State.simWriteBit (s : State) (name : String) (l : Level) : Result :=
  if s.sim.namesRail name then .refused .simWriteToRail else s.stepSim (s.sim.writeBit s.params name l)

/-- `WriteBits` called by the host (R144, D24). -/
def State.simWriteBits (s : State) (base : String) (n v : Nat) : Result :=
  if (bitNames base n).any s.sim.namesRail then .refused .simWriteToRail
  else s.stepSim (s.sim.writeBits s.params base n v)

/-- One call of the host. -/
def runCmd (c : HostCmd) (s : State) : Result :=
  match c with
  | .seqPowerOn => .next (s.setSeq s.seq.powerOn)
  | .seqClock => s.ofSeq (s.seq.clock s.params)
  | .seqIrqLine b => .next (s.setSeq { s.seq with irqLine := b })
  | .seqNmiLine b => .next (s.setSeq { s.seq with nmiLine := b })
  | .seqPoke a v => s.ofSeq (s.seq.memWrite s.params a v)
  | .simSetup net => s.simSetup net
  | .simInit => s.simInit
  | .simRunStartProgram => s.simRunStartProgram
  | .simHalfClock => s.stepSim (s.sim.halfClock s.params)
  | .simClock => s.stepSim (s.sim.clock s.params)
  | .simExecuteCycles n => s.stepSim (s.sim.executeCycles s.params n)
  | .simWriteBit name l => s.simWriteBit name l
  | .simWriteBits base n v => s.simWriteBits base n v
  | .simSettle seeds => s.simSettle seeds
  | .simReadBit name => s.readSim (s.sim.readBit name)
  | .simReadBits base n => s.readSim (s.sim.readBits base n)
  | .simPoke a v => s.ofSim (s.sim.memWrite s.params a v)

end Sys2Proof.Machine
end

