-- ==== Sys2Proof/Machine/Step.lean ====
section
/-! DEFINITION. One step of the machine: the host's next call if one is pending, otherwise SEQ up to its next instruction
boundary. -/

namespace Sys2Proof.Machine

/-- One whole instruction, interrupt sequence or unfinished sequence of SEQ: the `Clock()` calls that lead to the next
instruction boundary (R170, R171, R413), no input changing between them (log entry 6). -/
def stepSeq (s : State) : Host.Outcome State Fault Refusal :=
  let st := s.seq.ready
  match st.start s.params with
  | .inFlight => finishInFlight (s.setSeq st)
  | .interrupt v => takeInterrupt v (s.setSeq st.acknowledge)
  | .instruction i => exec i (s.setSeq st)
  | .fault f => .fault f

/-- One step (log entries 6 and 8). -/
def step (s : State) : Host.Outcome State Fault Refusal :=
  match s.host with
  | [] => stepSeq s
  | c :: rest => runCmd c (s.setHost rest)

/-- `s` with an instruction placed where the next step fetches its opcode, and nothing to run before it (log entry 7). -/
def State.withFetchWord (s : State) (nbits w : Nat) : State :=
  (s.setSeq (s.seq.placeBytes (tableBytes nbits w))).setHost []

end Sys2Proof.Machine
end

