-- ==== Sys2Proof/Machine/Bus.lean ====
section
/-! DEFINITION. The engines over any `BUS` (00_scope.md R6, 20_memory.md R60): the operations that reach the bus, with the
environment's `read` and `write` as an argument. `step` runs them on the reference bus of R61. -/

namespace Sys2Proof.Machine

/-- `BUS`: the environment's two functions (R6, R60), over whatever state `σ` it keeps behind them: a flat array, banks, a
device. A read may change that state, and either may fail (R62). -/
structure Bus (σ : Type) where
  read : σ → Addr → Except Fault (Byte × σ)
  write : σ → Addr → Byte → Except Fault σ

/-- An engine beside the state of its environment. The engine's own `mem` field is the reference bus's (R61); nothing here
reads it. -/
structure OnBus (σ α : Type) where
  env : σ
  engine : α
  deriving DecidableEq, Repr

/-- Make a request on a bus, if there is one, and go on with the byte a read answers (0 where nothing is read). -/
def Bus.serve {σ α : Type} (bus : Bus σ) (env : σ) (req : BusRequest) (k : Byte → Except Fault α) :
    Except Fault (OnBus σ α) :=
  match req with
  | .idle => (k 0).map (OnBus.mk env)
  | .read a =>
    match bus.read env a with
    | .ok (d, env') => (k d).map (OnBus.mk env')
    | .error f => .error f
  | .write a v =>
    match bus.write env a v with
    | .ok env' => (k 0).map (OnBus.mk env')
    | .error f => .error f

/-- The reference bus (R61, R62) as an environment. -/
def referenceBus (p : Params) : Bus Memory :=
  { read := fun m a => if a.toNat < p.busSize then .ok (m.read a.toNat, m) else .error (.outOfRange a)
    write := fun m a v => if a.toNat < p.busSize then .ok (m.write a.toNat v) else .error (.outOfRange a) }

/-- `Execute(op)` (R170, R176 to R179). -/
def runOpOn {σ : Type} (bus : Bus σ) (mode : DecimalMode) (op : MicroOp) (x : OnBus σ SeqState) :
    Except Fault (OnBus σ SeqState) :=
  bus.serve x.env (op.request mode x.engine) (fun d => .ok (op.effect mode d x.engine))

/-- SEQ's `Clock()` on any bus (R171): the NMI sample and the free tail make no access; an empty queue is filled, from the
opcode read where no interrupt is due, whose access is that cycle's own (R175). -/
def clockOn {σ : Type} (bus : Bus σ) (mode : DecimalMode) (x : OnBus σ SeqState) : Except Fault (OnBus σ SeqState) :=
  let st := x.engine.ready
  match st.q with
  | op :: rest => runOpOn bus mode op { x with engine := { st with q := rest } }
  | [] =>
    match st.poll with
    | .nmi => runOpOn bus mode .intT0 { x with engine :=
        { st with nmiPending := false, q := (interruptSequence nmiVector).drop 1 } }
    | .irq => runOpOn bus mode .intT0 { x with engine := { st with q := (interruptSequence irqVector).drop 1 } }
    | .opcode =>
      bus.serve x.env (.read st.pc) (fun opcode =>
        (decodeSequence opcode).map (fun ops => MicroOp.effect mode .opc 0 { st with q := ops.drop 1 }))

/-- `n` calls of `Clock()`. -/
def clocksOn {σ : Type} (bus : Bus σ) (mode : DecimalMode) : Nat → OnBus σ SeqState → Except Fault (OnBus σ SeqState)
  | 0, x => .ok x
  | n + 1, x => do
    let x ← clockOn bus mode x
    clocksOn bus mode n x

/-- What a half-clock asks of the bus once `clk0` has been toggled and has settled (R67, R151): a read after a fall with
`rw` high, a write after a rise with `rw` low, nothing otherwise. -/
def SimState.syncRequest (sim : SimState) (rose : Bool) : Except Fault BusRequest := do
  let rw ← sim.readBit "rw"
  if rw = rose then .ok .idle
  else
    let a ← sim.readAddressBus
    if rose then
      let d ← sim.readDataBus
      .ok (.write a d)
    else .ok (.read a)

/-- `HalfClock()` on any bus (R150, R151). -/
def halfClockOn {σ : Type} (bus : Bus σ) (p : Params) (x : OnBus σ SimState) : Except Fault (OnBus σ SimState) := do
  let c ← x.engine.readBit "clk0"
  let sim ← x.engine.writeBit p "clk0" (levelOf (!c))
  let req ← sim.syncRequest (!c)
  bus.serve x.env req (fun d =>
    match req with
    | .read _ => sim.writeBits p "db" 8 d.toNat
    | .idle | .write _ _ => .ok sim)

/-- `n` calls of `HalfClock()`: `Clock()` is two, `ExecuteCycles(n)` is `2 n`, `RunStartProgram()` nineteen (R150, R442).
`Init()` makes no access (R441). -/
def halfClocksOn {σ : Type} (bus : Bus σ) (p : Params) : Nat → OnBus σ SimState → Except Fault (OnBus σ SimState)
  | 0, x => .ok x
  | n + 1, x => do
    let x ← halfClockOn bus p x
    halfClocksOn bus p n x

end Sys2Proof.Machine
end

