-- ==== Sys2Proof/Safety.lean ====
section
/-! DEFINITION. The terms the statements are written in: the operand forms the spec lists for a mnemonic, what a completed
instruction leaves, bus traces and cycle counts, the invariants, and the lockstep contract. -/

namespace Sys2Proof.Machine

/-- Every 16-bit address is on the bus: "With `BUS_SIZE = 65536` it cannot happen" that an access is out of range (R62). -/
def FullBus (s : State) : Prop := s.params.busSize = 65536

/-- The registers an instruction can name (R30 to R32). -/
structure Regs where
  a : Byte
  x : Byte
  y : Byte
  s : Byte
  p : Byte
  pc : Addr
  deriving DecidableEq, Repr

/-- The registers of SEQ. -/
def SeqState.regs (st : SeqState) : Regs :=
  { a := st.a, x := st.x, y := st.y, s := st.s, p := st.p, pc := st.pc }

/-- A status byte with the listed flags set to the listed values and the others kept. -/
def withFlags (p : Byte) (l : List (Flag × Bool)) : Byte := l.foldl (fun q c => setFlag q c.1 c.2) p

/-- What reading a byte gives after the listed stores, the first first. -/
def SeqState.peekAfter (st : SeqState) (stores : List (Addr × Byte)) (a : Addr) : Byte :=
  stores.foldl (fun v c => if a = c.1 then c.2 else v) (st.peek a)

/-- What no instruction touches: the other engine, the parameters, the host's calls, the interrupt inputs and their
hidden state (R2, R37), and the model's own count of free values. -/
def Undisturbed (s t : State) : Prop :=
  t.sim = s.sim ∧ t.params = s.params ∧ t.host = s.host ∧ t.seq.irqLine = s.seq.irqLine ∧
    t.seq.nmiLine = s.seq.nmiLine ∧ t.seq.nmiPrev = s.seq.nmiPrev ∧ t.seq.nmiPending = s.seq.nmiPending ∧
    t.seq.freeCount = s.seq.freeCount

/-- `exec i` answers a next state at an instruction boundary, with exactly these registers, exactly these stores, and
nothing else changed but the latches. -/
def Completes (i : Instr) (s : State) (r : Regs) (stores : List (Addr × Byte)) : Prop :=
  ∃ t, exec i s = .next t ∧ t.seq.regs = r ∧ (∀ b, t.seq.peek b = s.seq.peekAfter stores b) ∧ t.seq.q = [] ∧
    Undisturbed s t

/-- An opcode byte, the instruction it selects, and its format: one entry of a rule's "Opcodes" line. -/
structure Form where
  opcode : Byte
  instr : Instr
  format : Format
  deriving DecidableEq, Repr

/-- The opcode byte decodes to the instruction, which has the format. -/
def Form.coded (c : Form) : Prop :=
  decodeOpcode c.opcode = c.instr ∧ c.instr.opcode = c.opcode ∧ c.instr.format = c.format

/-- The address of the instruction after one at `PC`. -/
def State.after (s : State) (i : Instr) : Addr := s.seq.pc + BitVec.ofNat 16 i.bytes

/-- Every listed form reads its operand at the net address of R91 and leaves the registers `r` of that byte; it stores
nothing. -/
def ReadsTo (forms : List Form) (s : State) (r : Byte → Regs) : Prop :=
  ∀ c ∈ forms, c.coded ∧ ∃ a, operandAddr c.format s.seq = some a ∧
    Completes c.instr s { r (s.seq.peek a) with pc := s.after c.instr } []

/-- Every listed form stores one byte at the net address of R91 and changes no register but `PC`. -/
def StoresTo (forms : List Form) (s : State) (v : Byte) : Prop :=
  ∀ c ∈ forms, c.coded ∧ ∃ a, operandAddr c.format s.seq = some a ∧
    Completes c.instr s { s.seq.regs with pc := s.after c.instr } [(a, v)]

/-- Every listed form replaces the byte at the net address of R91 by `f` of it and leaves the registers `r` of it. -/
def Modifies (forms : List Form) (s : State) (f : Byte → Byte) (r : Byte → Regs) : Prop :=
  ∀ c ∈ forms, c.coded ∧ ∃ a, operandAddr c.format s.seq = some a ∧
    Completes c.instr s { r (s.seq.peek a) with pc := s.after c.instr } [(a, f (s.seq.peek a))]

/-- Every listed form addresses no memory, stores nothing, and leaves the registers `r`. -/
def Registers (forms : List Form) (s : State) (r : Regs) : Prop :=
  ∀ c ∈ forms, c.coded ∧ Completes c.instr s { r with pc := s.after c.instr } []

/-- The stores of an entry: `PCH`, `PCL`, a status byte, downward from `S` (R416). -/
def SeqState.entryStores (st : SeqState) (ret : Addr) (status : Byte) : List (Addr × Byte) :=
  [(stackAddr st.s, hiByte ret), (stackAddr (st.s - 1), loByte ret), (stackAddr (st.s - 2), status)]

/-- `t` is `s` after an entry through a vector, the free tail still to come (R416, R451): three bytes pushed, `S` down by
three, `P.I` set, the vector's content in `ADH:ADL`, whence the next `Clock()` moves it to `PC`. -/
def Entered (s t : State) (ret : Addr) (status : Byte) (vector : Addr) : Prop :=
  t.seq.regs = { s.seq.regs with s := s.seq.s - 3, p := withFlags s.seq.p [(.i, true)], pc := ret } ∧
    (∀ b, t.seq.peek b = s.seq.peekAfter (s.seq.entryStores ret status) b) ∧
    t.seq.q = [.setPcAd] ∧ t.seq.ready.q = [] ∧
    t.seq.ready.pc = cat (s.seq.peek (vector + 1)) (s.seq.peek vector) ∧ Undisturbed s t

/-- The condition of a branch, from the flags (R300 to R307). -/
def branchTaken (i : Instr) (st : SeqState) : Bool :=
  match condOf i.mnemonic with
  | some c => c.holds st
  | none => false

/-- How many cycles an instruction at `PC` takes: the base count and the penalties of R94. -/
def cycleCount (i : Instr) (st : SeqState) : Nat :=
  i.cycles + match i.row.penalty with
    | .none => 0
    | .page => bit (indexCarries i.format st)
    | .takenPage =>
      bit (branchTaken i st) + bit (branchTaken i st && hiByte st.branchTarget != hiByte (st.pc + 2))

/-- A read of the byte an address holds. -/
def SeqState.readOf (st : SeqState) (a : Addr) : BusAccess := .read a (st.peek a)

/-- The accesses that fetch the opcode and form the operand's address, without the operand's own access: the cycle tables
of R181 to R200. `always` says that the indexed forms read at the uncorrected address even when it is right, as the write
and rmw forms do (R193, R194, R199, R200). -/
def formTrace (f : Format) (always : Bool) (st : SeqState) : List BusAccess :=
  let b1 := st.operand1
  let zp := [st.readOf st.pc, st.readOf (st.pc + 1)]
  let abs := zp ++ [st.readOf (st.pc + 2)]
  match f with
  | .imp | .acc | .rel => zp
  | .imm => [st.readOf st.pc]
  | .zp => zp
  | .zpx | .zpy => zp ++ [st.readOf (zeroPageAddr b1)]
  | .abs | .ind => abs
  | .abx => abs ++ (if always || indexCarries f st then [st.readOf (cat st.operand2 (b1 + st.x))] else [])
  | .aby => abs ++ (if always || indexCarries f st then [st.readOf (cat st.operand2 (b1 + st.y))] else [])
  | .izx => zp ++ [st.readOf (zeroPageAddr b1), st.readOf (zeroPageAddr (b1 + st.x)),
      st.readOf (zeroPageAddr (b1 + st.x + 1))]
  | .izy => zp ++ [st.readOf (zeroPageAddr b1), st.readOf (zeroPageAddr (b1 + 1))] ++
      (if always || indexCarries f st then
        [st.readOf (cat (st.peek (zeroPageAddr (b1 + 1))) (st.peek (zeroPageAddr b1) + st.y))] else [])

/-- The accesses of a branch's cycles after its second (R202). -/
def branchTrace (i : Instr) (st : SeqState) : List BusAccess :=
  if branchTaken i st then
    if hiByte st.branchTarget = hiByte (st.pc + 2) then [st.readOf (st.pc + 2)]
    else [st.readOf (st.pc + 2), st.readOf (cat (hiByte (st.pc + 2)) (loByte st.branchTarget))]
  else []

/-- Every bus access of an instruction at `PC`, with its address, direction and data, first first: the cycle tables of
R180 to R208 in terms of what memory holds before the instruction. -/
def instrTrace (i : Instr) (mode : DecimalMode) (st : SeqState) : List BusAccess :=
  let two := [st.readOf st.pc, st.readOf (st.pc + 1)]
  match i.cls with
  | .imp | .acc | .unk => two
  | .read =>
    match operandAddr i.format st with
    | some a => formTrace i.format false st ++ [st.readOf a]
    | none => []
  | .write =>
    match operandAddr i.format st, storeFnOf i.mnemonic with
    | some a, some v => formTrace i.format true st ++ [.write a (v.value st)]
    | _, _ => []
  | .rmw =>
    match operandAddr i.format st, rmwFnOf i.mnemonic with
    | some a, some e =>
      formTrace i.format true st ++
        [st.readOf a, .write a (st.peek a), .write a (e.apply mode (st.peek a) st).v]
    | _, _ => []
  | .branch => two ++ branchTrace i st
  | .jmp => two ++ [st.readOf (st.pc + 2)]
  | .jmpind => two ++ [st.readOf (st.pc + 2), st.readOf st.operandWord, st.readOf (cat st.operand2 (st.operand1 + 1))]
  | .jsr =>
    let stores := [(stackAddr st.s, hiByte (st.pc + 2)), (stackAddr (st.s - 1), loByte (st.pc + 2))]
    two ++ [st.readOf (stackAddr st.s), .write (stackAddr st.s) (hiByte (st.pc + 2)),
      .write (stackAddr (st.s - 1)) (loByte (st.pc + 2)), .read (st.pc + 2) (st.peekAfter stores (st.pc + 2))]
  | .rts => two ++ [st.readOf (stackAddr st.s), st.readOf (stackAddr (st.s + 1)), st.readOf (stackAddr (st.s + 2)),
      st.readOf (cat (st.peek (stackAddr (st.s + 2))) (st.peek (stackAddr (st.s + 1))))]
  | .rti => two ++ [st.readOf (stackAddr st.s), st.readOf (stackAddr (st.s + 1)), st.readOf (stackAddr (st.s + 2)),
      st.readOf (stackAddr (st.s + 3))]
  | .brk => two ++ [.write (stackAddr st.s) (hiByte (st.pc + 2)), .write (stackAddr (st.s - 1)) (loByte (st.pc + 2)),
      .write (stackAddr (st.s - 2)) (pushedBreak st.p), st.readOf irqVector, st.readOf (irqVector + 1)]
  | .push =>
    match pushValOf i.mnemonic with
    | some v => two ++ [.write (stackAddr st.s) (v.value st)]
    | none => []
  | .pull => two ++ [st.readOf (stackAddr st.s), st.readOf (stackAddr (st.s + 1))]

/-- SEQ between two instructions with no interrupt due: the next `Clock()` fetches the opcode at `PC` (R171, R413). -/
def SeqState.Idle (st : SeqState) : Prop :=
  st.q = [] ∧ st.nmiPending = false ∧ (st.nmiLine = true → st.nmiPrev = true) ∧
    (st.irqLine = true → getFlag st.p .i = true)

/-- The shape of a queue between two `Clock()` calls (R36, R170): at most eight operations, the opcode cycle never among
them, and the free operation nowhere but last. -/
def QueueShape (q : List MicroOp) : Prop :=
  q.length ≤ 8 ∧ (∀ op ∈ q, op ≠ .opc) ∧ ∀ op ∈ q.dropLast, op.isFree = false

/-- Both memory images are in canonical form. -/
def MemoryForm (s : State) : Prop := s.seq.mem.wf = true ∧ s.sim.mem.wf = true

/-- SIM's network holds together (R20 to R25, R121, R122): the rails are two nodes with their fixed states; every
transistor joins existing nodes, conducts exactly when its gate is high (R25), and stands in the lists of its three nodes
and in no other (R122); a rail terminal stands second (R121). -/
def Conductive (sim : SimState) : Prop :=
  sim.gnd < sim.nodes.length ∧ sim.pwr < sim.nodes.length ∧ sim.gnd ≠ sim.pwr ∧
    (sim.node sim.gnd).state = false ∧ (sim.node sim.pwr).state = true ∧
    (∀ t, t < sim.transistors.length →
      (sim.trans t).gate < sim.nodes.length ∧ (sim.trans t).t1 < sim.nodes.length ∧
        (sim.trans t).t2 < sim.nodes.length ∧ (sim.trans t).on = (sim.node (sim.trans t).gate).state ∧
        t ∈ (sim.node (sim.trans t).gate).gates ∧ t ∈ (sim.node (sim.trans t).t1).terminals ∧
        t ∈ (sim.node (sim.trans t).t2).terminals ∧
        (sim.isRail (sim.trans t).t1 = true → sim.isRail (sim.trans t).t2 = true)) ∧
    (∀ n t, t ∈ (sim.node n).gates → t < sim.transistors.length ∧ (sim.trans t).gate = n) ∧
    (∀ n t, t ∈ (sim.node n).terminals →
      t < sim.transistors.length ∧ ((sim.trans t).t1 = n ∨ (sim.trans t).t2 = n))

/-- What `Setup` builds once and nothing changes afterwards (R20, R21: "never after setup"). -/
def SameCircuit (a b : SimState) : Prop :=
  b.gnd = a.gnd ∧ b.pwr = a.pwr ∧ b.readers = a.readers ∧ b.nodes.length = a.nodes.length ∧
    b.transistors.length = a.transistors.length ∧
    (∀ i, (b.node i).gates = (a.node i).gates ∧ (b.node i).terminals = (a.node i).terminals ∧
      (b.node i).name = (a.node i).name) ∧
    (∀ t, (b.trans t).name = (a.trans t).name ∧ (b.trans t).gate = (a.trans t).gate ∧
      (b.trans t).t1 = (a.trans t).t1 ∧ (b.trans t).t2 = (a.trans t).t2)

/-- The external drive of every node is the same: a settle writes no `pullUp`, `pullDown` or `floating` (R125). -/
def SameDrive (a b : SimState) : Prop :=
  ∀ i, (b.node i).pullUp = (a.node i).pullUp ∧ (b.node i).pullDown = (a.node i).pullDown ∧
    (b.node i).floating = (a.node i).floating

/-- The first node of a group at which one of the three tests of R130 fires. -/
def SimState.decider (sim : SimState) (group : List Nat) : Option Nat :=
  group.find? (fun g => (sim.node g).pullUp || (sim.node g).pullDown || (sim.node g).state)

/-- Node `b` is one step of the group walk away from `a`: `a` is no rail, and an on transistor of its list leads to `b`
(R128). -/
def SimState.Joins (sim : SimState) (a b : Nat) : Prop :=
  sim.isRail a = false ∧ ∃ t ∈ (sim.node a).terminals, (sim.trans t).on = true ∧ (sim.trans t).other a = b

/-- The calls that act on SIM (R2). -/
def HostCmd.onSim : HostCmd → Bool
  | .seqPowerOn | .seqClock | .seqIrqLine _ | .seqNmiLine _ | .seqPoke _ _ => false
  | .simSetup _ | .simInit | .simRunStartProgram | .simHalfClock | .simClock | .simExecuteCycles _ | .simWriteBit _ _
  | .simWriteBits _ _ _ | .simSettle _ | .simReadBit _ | .simReadBits _ _ | .simPoke _ _ => true

/-- Two states of SEQ that agree on everything but the five latches. -/
def SameButLatches (a b : SeqState) : Prop :=
  b = { a with adl := b.adl, adh := b.adh, eal := b.eal, eah := b.eah, dl := b.dl }

/-- Two states of SEQ that agree on everything but latches no later cycle reads before writing them (R229): between
instructions or just powered on all five, with the free tail still to come the three that do not hold its target (R451). -/
def LatchAlike (a b : SeqState) : Prop :=
  SameButLatches a b ∧
    (a.q = [] ∨ a.q = resetSequence ∨ (a.q = [.setPcAd] ∧ b.adl = a.adl ∧ b.adh = a.adh))

/-- A SIM no pin of which has been written: "true until first driven" (R21). -/
def Undriven (sim : SimState) : Prop := ∀ i, (sim.node i).floating = true

/-- The calls that step SIM (R2: "`HalfClock()`/`Clock()`/pin writes"): at least one half-clock, or at least one pin. -/
def HostCmd.movesSim : HostCmd → Bool
  | .simHalfClock | .simClock | .simWriteBit _ _ => true
  | .simExecuteCycles n | .simWriteBits _ n _ => n != 0
  | .seqPowerOn | .seqClock | .seqIrqLine _ | .seqNmiLine _ | .seqPoke _ _ | .simSetup _ | .simInit | .simRunStartProgram
  | .simSettle _ | .simReadBit _ | .simReadBits _ _ | .simPoke _ _ => false

/-- One pass over the worklist: every node of it recalculated in order, filling the next one (R125, steps 2a and 2b). -/
def Round.turn (r : Round) : Round := r.next.foldl Round.recalcNode { sim := r.sim, next := [] }

/-- A transistor that recalculating a group to `v` switches: its gate is in the group, is no rail, and has not the value
yet (R131). -/
def SimState.Switched (sim : SimState) (group : List Nat) (v : Bool) (t : Nat) : Prop :=
  (sim.trans t).gate ∈ group ∧ sim.isRail (sim.trans t).gate = false ∧ (sim.node (sim.trans t).gate).state ≠ v

/-- `(SimA, SimX, SimY, SimS, SimPC, SimP)` as SEQ's registers are written (R145, R470). -/
def SimRegs.regs (r : SimRegs) : Regs := { a := r.a, x := r.x, y := r.y, s := r.s, p := r.p, pc := r.pc }

/-- `k` full cycles of both engines side by side. -/
def lockstepRun (p : Params) (k : Nat) (st : SeqState) (sim : SimState) : Option (SeqState × SimState) :=
  match st.clocks p k, sim.executeCycles p k with
  | .ok st', .ok sim' => some (st', sim')
  | _, _ => none

/-- The two engines at the start of the comparison of R470: SIM after `Init()` and `RunStartProgram()`, SEQ after
`PowerOn()` and `BOOT_ALIGN` calls of `Clock()`, on two copies of one image. -/
def LockstepStart (p : Params) (v : PowerOnValues) (net : Net) (image : Memory) (st : SeqState) (sim : SimState) : Prop :=
  ∃ sim0 sim1, setup net image = some sim0 ∧ sim0.init p = .ok sim1 ∧ sim1.runStartProgram p = .ok sim ∧
    (SeqState.poweredOn v image).clocks p p.bootAlign = .ok st

/-- The lockstep contract of R470 for `cycles` cycles, for a circuit, a memory image and power-on values. It is "a
property of the pair (`NET`, SEQ), not a mechanism ... over an abstract `NET` it is a hypothesis about `NET`, not a
theorem": nothing is claimed of it (log entry 23). -/
def Lockstep (p : Params) (v : PowerOnValues) (net : Net) (image : Memory) (cycles : Nat) : Prop :=
  ∃ st0 sim0, LockstepStart p v net image st0 sim0 ∧
    ∀ k, 1 ≤ k → k ≤ cycles →
      ∃ st sim r, lockstepRun p k st0 sim0 = some (st, sim) ∧ sim.readRegs = .ok r ∧ r.regs = st.regs ∧
        ∀ a : Addr, sim.mem.read a.toNat = st.mem.read a.toNat

/-- The instruction whose opcode the next `Clock()` fetches, if it fetches one (R171). -/
def SeqState.nextInstr (p : Params) (st : SeqState) : Option Instr :=
  match st.ready.start p with
  | .instruction i => some i
  | .inFlight | .interrupt _ | .fault _ => none

/-- The instructions `DECIMAL_MODE` bears on (R471: "`ADC`/`SBC`/`ARR`/`RRA`/`ISC`"). -/
def bearsDecimal (i : Instr) : Bool :=
  match i.mnemonic with
  | .adc | .sbc | .arr | .rra | .isc => true
  | _ => false

/-- The domain of R471 (D28). The bus is the reference bus, which has no side effect (R61); from `PowerOn()` on nothing
writes `irqLine` and `nmiLine`, which are false (R37), and `lockstepRun` writes none of SIM's pins but `clk0` and the data
bus: so these parts of the domain hold of every run it makes. What remains is said here: the full bus; no `UNK` opcode
executed; no `ARR` with `P.D = 1`, and the others that `P.D` bears on only under `DECIMAL_MODE = nmos`; and the power-on
values `A0 X0 Y0 S0 P0` those `NET` holds after `RunStartProgram()` (log entry 23). -/
def LockstepDomain (p : Params) (v : PowerOnValues) (net : Net) (image : Memory) (cycles : Nat) : Prop :=
  p.busSize = 65536 ∧
    (∀ k st i, k < p.bootAlign + cycles → (SeqState.poweredOn v image).clocks p k = .ok st → st.nextInstr p = some i →
      i.cls ≠ .unk ∧
        (bearsDecimal i = true → getFlag st.p .d = true → p.decimalMode = .nmos ∧ i.mnemonic ≠ .arr)) ∧
    ∀ st sim r, LockstepStart p v net image st sim → sim.readRegs = .ok r →
      v.a = r.a ∧ v.x = r.x ∧ v.y = r.y ∧ v.s = r.s ∧ v.p = r.p

/-- What R471 says SEQ "is meant to satisfy" on its domain: the memory half of R470 after every cycle, and the register half
at instruction boundaries (queue empty, R36) alone (D8). A hypothesis about `NET`, as `Lockstep` is. -/
def LockstepOnDomain (p : Params) (v : PowerOnValues) (net : Net) (image : Memory) (cycles : Nat) : Prop :=
  LockstepDomain p v net image cycles →
    ∃ st0 sim0, LockstepStart p v net image st0 sim0 ∧
      ∀ k, 1 ≤ k → k ≤ cycles →
        ∃ st sim, lockstepRun p k st0 sim0 = some (st, sim) ∧
          (∀ a : Addr, sim.mem.read a.toNat = st.mem.read a.toNat) ∧
          (st.q = [] → ∃ r, sim.readRegs = .ok r ∧ r.regs = st.regs)

end Sys2Proof.Machine
end

