-- ==== Sys2Proof/WellFormed.lean ====
section
/-! DEFINITION. Well-formed terms: an instruction with its operand bytes has exactly as many as its row of the opcode
table gives it (30_encoding.md R90, R91). A well-formed circuit description is `Net.wellFormed` of Machine/Network.lean. -/

namespace Sys2Proof

/-- The number of operand bytes is the size of the row less the opcode byte (R91, R94). -/
def Asm.wellFormed (c : Asm) : Bool := c.operands.length == c.instr.operandCount

end Sys2Proof
end

