-- ==== Sys2Proof/Certificates/Slice0/Obligations.lean ====
section
/-! DEFINITION. The statements for the provers: Obligations.<Name> : Prop, and the "Opcodes" lines of the rules they quantify
over. -/

namespace Sys2Proof.Machine

/-- Opcodes of R230. -/
def ldaForms : List Form :=
  [⟨0xA9, .ldaImm, .imm⟩, ⟨0xA5, .ldaZp, .zp⟩, ⟨0xB5, .ldaZpx, .zpx⟩, ⟨0xAD, .ldaAbs, .abs⟩,
   ⟨0xBD, .ldaAbx, .abx⟩, ⟨0xB9, .ldaAby, .aby⟩, ⟨0xA1, .ldaIzx, .izx⟩, ⟨0xB1, .ldaIzy, .izy⟩]

/-- Opcodes of R231. -/
def ldxForms : List Form :=
  [⟨0xA2, .ldxImm, .imm⟩, ⟨0xA6, .ldxZp, .zp⟩, ⟨0xB6, .ldxZpy, .zpy⟩, ⟨0xAE, .ldxAbs, .abs⟩,
   ⟨0xBE, .ldxAby, .aby⟩]

/-- Opcodes of R232. -/
def ldyForms : List Form :=
  [⟨0xA0, .ldyImm, .imm⟩, ⟨0xA4, .ldyZp, .zp⟩, ⟨0xB4, .ldyZpx, .zpx⟩, ⟨0xAC, .ldyAbs, .abs⟩,
   ⟨0xBC, .ldyAbx, .abx⟩]

/-- Opcodes of R233. -/
def staForms : List Form :=
  [⟨0x85, .staZp, .zp⟩, ⟨0x95, .staZpx, .zpx⟩, ⟨0x8D, .staAbs, .abs⟩, ⟨0x9D, .staAbx, .abx⟩,
   ⟨0x99, .staAby, .aby⟩, ⟨0x81, .staIzx, .izx⟩, ⟨0x91, .staIzy, .izy⟩]

/-- Opcodes of R234. -/
def stxForms : List Form :=
  [⟨0x86, .stxZp, .zp⟩, ⟨0x96, .stxZpy, .zpy⟩, ⟨0x8E, .stxAbs, .abs⟩]

/-- Opcodes of R235. -/
def styForms : List Form :=
  [⟨0x84, .styZp, .zp⟩, ⟨0x94, .styZpx, .zpx⟩, ⟨0x8C, .styAbs, .abs⟩]

/-- Opcodes of R263. -/
def adcForms : List Form :=
  [⟨0x69, .adcImm, .imm⟩, ⟨0x65, .adcZp, .zp⟩, ⟨0x75, .adcZpx, .zpx⟩, ⟨0x6D, .adcAbs, .abs⟩,
   ⟨0x7D, .adcAbx, .abx⟩, ⟨0x79, .adcAby, .aby⟩, ⟨0x61, .adcIzx, .izx⟩, ⟨0x71, .adcIzy, .izy⟩]

/-- Opcodes of R264. -/
def sbcForms : List Form :=
  [⟨0xE9, .sbcImm, .imm⟩, ⟨0xE5, .sbcZp, .zp⟩, ⟨0xF5, .sbcZpx, .zpx⟩, ⟨0xED, .sbcAbs, .abs⟩,
   ⟨0xFD, .sbcAbx, .abx⟩, ⟨0xF9, .sbcAby, .aby⟩, ⟨0xE1, .sbcIzx, .izx⟩, ⟨0xF1, .sbcIzy, .izy⟩]

/-- Opcodes of R265. -/
def andForms : List Form :=
  [⟨0x29, .andImm, .imm⟩, ⟨0x25, .andZp, .zp⟩, ⟨0x35, .andZpx, .zpx⟩, ⟨0x2D, .andAbs, .abs⟩,
   ⟨0x3D, .andAbx, .abx⟩, ⟨0x39, .andAby, .aby⟩, ⟨0x21, .andIzx, .izx⟩, ⟨0x31, .andIzy, .izy⟩]

/-- Opcodes of R266. -/
def oraForms : List Form :=
  [⟨0x09, .oraImm, .imm⟩, ⟨0x05, .oraZp, .zp⟩, ⟨0x15, .oraZpx, .zpx⟩, ⟨0x0D, .oraAbs, .abs⟩,
   ⟨0x1D, .oraAbx, .abx⟩, ⟨0x19, .oraAby, .aby⟩, ⟨0x01, .oraIzx, .izx⟩, ⟨0x11, .oraIzy, .izy⟩]

/-- Opcodes of R267. -/
def eorForms : List Form :=
  [⟨0x49, .eorImm, .imm⟩, ⟨0x45, .eorZp, .zp⟩, ⟨0x55, .eorZpx, .zpx⟩, ⟨0x4D, .eorAbs, .abs⟩,
   ⟨0x5D, .eorAbx, .abx⟩, ⟨0x59, .eorAby, .aby⟩, ⟨0x41, .eorIzx, .izx⟩, ⟨0x51, .eorIzy, .izy⟩]

/-- Opcodes of R268. -/
def bitForms : List Form :=
  [⟨0x24, .bitZp, .zp⟩, ⟨0x2C, .bitAbs, .abs⟩]

/-- Opcodes of R269. -/
def cmpForms : List Form :=
  [⟨0xC9, .cmpImm, .imm⟩, ⟨0xC5, .cmpZp, .zp⟩, ⟨0xD5, .cmpZpx, .zpx⟩, ⟨0xCD, .cmpAbs, .abs⟩,
   ⟨0xDD, .cmpAbx, .abx⟩, ⟨0xD9, .cmpAby, .aby⟩, ⟨0xC1, .cmpIzx, .izx⟩, ⟨0xD1, .cmpIzy, .izy⟩]

/-- Opcodes of R270. -/
def cpxForms : List Form :=
  [⟨0xE0, .cpxImm, .imm⟩, ⟨0xE4, .cpxZp, .zp⟩, ⟨0xEC, .cpxAbs, .abs⟩]

/-- Opcodes of R271. -/
def cpyForms : List Form :=
  [⟨0xC0, .cpyImm, .imm⟩, ⟨0xC4, .cpyZp, .zp⟩, ⟨0xCC, .cpyAbs, .abs⟩]

/-- Opcodes of R272. -/
def incForms : List Form :=
  [⟨0xE6, .incZp, .zp⟩, ⟨0xF6, .incZpx, .zpx⟩, ⟨0xEE, .incAbs, .abs⟩, ⟨0xFE, .incAbx, .abx⟩]

/-- Opcodes of R273. -/
def decForms : List Form :=
  [⟨0xC6, .decZp, .zp⟩, ⟨0xD6, .decZpx, .zpx⟩, ⟨0xCE, .decAbs, .abs⟩, ⟨0xDE, .decAbx, .abx⟩]

/-- Opcodes of R355. -/
def saxForms : List Form :=
  [⟨0x87, .saxZp, .zp⟩, ⟨0x97, .saxZpy, .zpy⟩, ⟨0x8F, .saxAbs, .abs⟩, ⟨0x83, .saxIzx, .izx⟩]

/-- Opcodes of R356. -/
def laxForms : List Form :=
  [⟨0xA7, .laxZp, .zp⟩, ⟨0xB7, .laxZpy, .zpy⟩, ⟨0xAF, .laxAbs, .abs⟩, ⟨0xBF, .laxAby, .aby⟩,
   ⟨0xA3, .laxIzx, .izx⟩, ⟨0xB3, .laxIzy, .izy⟩]

/-- Opcodes of R351. -/
def sloForms : List Form :=
  [⟨0x07, .sloZp, .zp⟩, ⟨0x17, .sloZpx, .zpx⟩, ⟨0x0F, .sloAbs, .abs⟩, ⟨0x1F, .sloAbx, .abx⟩,
   ⟨0x1B, .sloAby, .aby⟩, ⟨0x03, .sloIzx, .izx⟩, ⟨0x13, .sloIzy, .izy⟩]

/-- Opcodes of R352. -/
def rlaForms : List Form :=
  [⟨0x27, .rlaZp, .zp⟩, ⟨0x37, .rlaZpx, .zpx⟩, ⟨0x2F, .rlaAbs, .abs⟩, ⟨0x3F, .rlaAbx, .abx⟩,
   ⟨0x3B, .rlaAby, .aby⟩, ⟨0x23, .rlaIzx, .izx⟩, ⟨0x33, .rlaIzy, .izy⟩]

/-- Opcodes of R353. -/
def sreForms : List Form :=
  [⟨0x47, .sreZp, .zp⟩, ⟨0x57, .sreZpx, .zpx⟩, ⟨0x4F, .sreAbs, .abs⟩, ⟨0x5F, .sreAbx, .abx⟩,
   ⟨0x5B, .sreAby, .aby⟩, ⟨0x43, .sreIzx, .izx⟩, ⟨0x53, .sreIzy, .izy⟩]

/-- Opcodes of R354. -/
def rraForms : List Form :=
  [⟨0x67, .rraZp, .zp⟩, ⟨0x77, .rraZpx, .zpx⟩, ⟨0x6F, .rraAbs, .abs⟩, ⟨0x7F, .rraAbx, .abx⟩,
   ⟨0x7B, .rraAby, .aby⟩, ⟨0x63, .rraIzx, .izx⟩, ⟨0x73, .rraIzy, .izy⟩]

/-- Opcodes of R357. -/
def dcpForms : List Form :=
  [⟨0xC7, .dcpZp, .zp⟩, ⟨0xD7, .dcpZpx, .zpx⟩, ⟨0xCF, .dcpAbs, .abs⟩, ⟨0xDF, .dcpAbx, .abx⟩,
   ⟨0xDB, .dcpAby, .aby⟩, ⟨0xC3, .dcpIzx, .izx⟩, ⟨0xD3, .dcpIzy, .izy⟩]

/-- Opcodes of R358. -/
def iscForms : List Form :=
  [⟨0xE7, .iscZp, .zp⟩, ⟨0xF7, .iscZpx, .zpx⟩, ⟨0xEF, .iscAbs, .abs⟩, ⟨0xFF, .iscAbx, .abx⟩,
   ⟨0xFB, .iscAby, .aby⟩, ⟨0xE3, .iscIzx, .izx⟩, ⟨0xF3, .iscIzy, .izy⟩]

/-- Opcodes of R363. -/
def lasForms : List Form :=
  [⟨0xBB, .lasAby, .aby⟩]

/-- Opcodes of R359. -/
def ancForms : List Form :=
  [⟨0x0B, .ancImm0B, .imm⟩, ⟨0x2B, .ancImm2B, .imm⟩]

/-- Opcodes of R360. -/
def alrForms : List Form :=
  [⟨0x4B, .alrImm, .imm⟩]

/-- Opcodes of R361. -/
def arrForms : List Form :=
  [⟨0x6B, .arrImm, .imm⟩]

/-- Opcodes of R362. -/
def axsForms : List Form :=
  [⟨0xCB, .axsImm, .imm⟩]

/-- Opcodes of R364. -/
def sbcTwinForms : List Form :=
  [⟨0xEB, .sbcImmEB, .imm⟩]

/-- Opcodes of R315, R365. -/
def nopImpliedForms : List Form :=
  [⟨0xEA, .nop, .imp⟩, ⟨0x1A, .nopImp1A, .imp⟩, ⟨0x3A, .nopImp3A, .imp⟩, ⟨0x5A, .nopImp5A, .imp⟩,
   ⟨0x7A, .nopImp7A, .imp⟩, ⟨0xDA, .nopImpDA, .imp⟩, ⟨0xFA, .nopImpFA, .imp⟩]

/-- Opcodes of R366, R367. -/
def nopReadForms : List Form :=
  [⟨0x80, .nopImm80, .imm⟩, ⟨0x82, .nopImm82, .imm⟩, ⟨0x89, .nopImm89, .imm⟩, ⟨0xC2, .nopImmC2, .imm⟩,
   ⟨0xE2, .nopImmE2, .imm⟩, ⟨0x04, .nopZp04, .zp⟩, ⟨0x44, .nopZp44, .zp⟩, ⟨0x64, .nopZp64, .zp⟩,
   ⟨0x14, .nopZpx14, .zpx⟩, ⟨0x34, .nopZpx34, .zpx⟩, ⟨0x54, .nopZpx54, .zpx⟩, ⟨0x74, .nopZpx74, .zpx⟩,
   ⟨0xD4, .nopZpxD4, .zpx⟩, ⟨0xF4, .nopZpxF4, .zpx⟩, ⟨0x0C, .nopAbs, .abs⟩, ⟨0x1C, .nopAbx1C, .abx⟩,
   ⟨0x3C, .nopAbx3C, .abx⟩, ⟨0x5C, .nopAbx5C, .abx⟩, ⟨0x7C, .nopAbx7C, .abx⟩, ⟨0xDC, .nopAbxDC, .abx⟩,
   ⟨0xFC, .nopAbxFC, .abx⟩]

/-- Opcodes of R368. -/
def unkForms : List Form :=
  [⟨0x02, .unk02, .imp⟩, ⟨0x12, .unk12, .imp⟩, ⟨0x22, .unk22, .imp⟩, ⟨0x32, .unk32, .imp⟩,
   ⟨0x42, .unk42, .imp⟩, ⟨0x52, .unk52, .imp⟩, ⟨0x62, .unk62, .imp⟩, ⟨0x72, .unk72, .imp⟩,
   ⟨0x92, .unk92, .imp⟩, ⟨0xB2, .unkB2, .imp⟩, ⟨0xD2, .unkD2, .imp⟩, ⟨0xF2, .unkF2, .imp⟩,
   ⟨0x8B, .unk8B, .imp⟩, ⟨0x93, .unk93, .imp⟩, ⟨0x9B, .unk9B, .imp⟩, ⟨0x9C, .unk9C, .imp⟩,
   ⟨0x9E, .unk9E, .imp⟩, ⟨0x9F, .unk9F, .imp⟩, ⟨0xAB, .unkAB, .imp⟩]

/-- Opcodes of R278. -/
def aslAccForms : List Form :=
  [⟨0x0A, .aslAcc, .acc⟩]

/-- Opcodes of R278. -/
def aslMemForms : List Form :=
  [⟨0x06, .aslZp, .zp⟩, ⟨0x16, .aslZpx, .zpx⟩, ⟨0x0E, .aslAbs, .abs⟩, ⟨0x1E, .aslAbx, .abx⟩]

/-- Opcodes of R279. -/
def lsrAccForms : List Form :=
  [⟨0x4A, .lsrAcc, .acc⟩]

/-- Opcodes of R279. -/
def lsrMemForms : List Form :=
  [⟨0x46, .lsrZp, .zp⟩, ⟨0x56, .lsrZpx, .zpx⟩, ⟨0x4E, .lsrAbs, .abs⟩, ⟨0x5E, .lsrAbx, .abx⟩]

/-- Opcodes of R280. -/
def rolAccForms : List Form :=
  [⟨0x2A, .rolAcc, .acc⟩]

/-- Opcodes of R280. -/
def rolMemForms : List Form :=
  [⟨0x26, .rolZp, .zp⟩, ⟨0x36, .rolZpx, .zpx⟩, ⟨0x2E, .rolAbs, .abs⟩, ⟨0x3E, .rolAbx, .abx⟩]

/-- Opcodes of R281. -/
def rorAccForms : List Form :=
  [⟨0x6A, .rorAcc, .acc⟩]

/-- Opcodes of R281. -/
def rorMemForms : List Form :=
  [⟨0x66, .rorZp, .zp⟩, ⟨0x76, .rorZpx, .zpx⟩, ⟨0x6E, .rorAbs, .abs⟩, ⟨0x7E, .rorAbx, .abx⟩]

/-- R236. -/
def taxForm : Form := ⟨0xAA, .tax, .imp⟩

/-- R237. -/
def tayForm : Form := ⟨0xA8, .tay, .imp⟩

/-- R238. -/
def txaForm : Form := ⟨0x8A, .txa, .imp⟩

/-- R239. -/
def tyaForm : Form := ⟨0x98, .tya, .imp⟩

/-- R240. -/
def tsxForm : Form := ⟨0xBA, .tsx, .imp⟩

/-- R241. -/
def txsForm : Form := ⟨0x9A, .txs, .imp⟩

/-- R274. -/
def inxForm : Form := ⟨0xE8, .inx, .imp⟩

/-- R275. -/
def inyForm : Form := ⟨0xC8, .iny, .imp⟩

/-- R276. -/
def dexForm : Form := ⟨0xCA, .dex, .imp⟩

/-- R277. -/
def deyForm : Form := ⟨0x88, .dey, .imp⟩

/-- R320. -/
def clcForm : Form := ⟨0x18, .clc, .imp⟩

/-- R321. -/
def secForm : Form := ⟨0x38, .sec, .imp⟩

/-- R322. -/
def cliForm : Form := ⟨0x58, .cli, .imp⟩

/-- R323. -/
def seiForm : Form := ⟨0x78, .sei, .imp⟩

/-- R324. -/
def clvForm : Form := ⟨0xB8, .clv, .imp⟩

/-- R325. -/
def cldForm : Form := ⟨0xD8, .cld, .imp⟩

/-- R326. -/
def sedForm : Form := ⟨0xF8, .sed, .imp⟩

/-- R300. -/
def bplForm : Form := ⟨0x10, .bpl, .rel⟩

/-- R301. -/
def bmiForm : Form := ⟨0x30, .bmi, .rel⟩

/-- R302. -/
def bvcForm : Form := ⟨0x50, .bvc, .rel⟩

/-- R303. -/
def bvsForm : Form := ⟨0x70, .bvs, .rel⟩

/-- R304. -/
def bccForm : Form := ⟨0x90, .bcc, .rel⟩

/-- R305. -/
def bcsForm : Form := ⟨0xB0, .bcs, .rel⟩

/-- R306. -/
def bneForm : Form := ⟨0xD0, .bne, .rel⟩

/-- R307. -/
def beqForm : Form := ⟨0xF0, .beq, .rel⟩

/-- R309. -/
def jmpForm : Form := ⟨0x4C, .jmpAbs, .abs⟩

/-- R310. -/
def jmpIndForm : Form := ⟨0x6C, .jmpInd, .ind⟩

/-- R311. -/
def jsrForm : Form := ⟨0x20, .jsr, .abs⟩

/-- R312. -/
def rtsForm : Form := ⟨0x60, .rts, .imp⟩

/-- R313. -/
def rtiForm : Form := ⟨0x40, .rti, .imp⟩

/-- R314. -/
def brkForm : Form := ⟨0x00, .brk, .imp⟩

/-- R316. -/
def phaForm : Form := ⟨0x48, .pha, .imp⟩

/-- R317. -/
def phpForm : Form := ⟨0x08, .php, .imp⟩

/-- R318. -/
def plaForm : Form := ⟨0x68, .pla, .imp⟩

/-- R319. -/
def plpForm : Form := ⟨0x28, .plp, .imp⟩

end Sys2Proof.Machine

open Sys2Proof Sys2Proof.Machine

/-! ### Memory, registers, reset -/

/-- R61: `read(a) = mem[a]`; `write(a, v)` sets `mem[a] <- v`, and no other byte; a write keeps the canonical form, in
which equal contents are equal data (the list form is the model's own, log entry 5). -/
def Obligations.ReadAfterWrite : Prop :=
  ∀ (m : Memory) (a b : Addr) (v : Byte),
    (m.write a.toNat v).read b.toNat = (if b = a then v else m.read b.toNat) ∧
      (m.wf = true → (m.write a.toNat v).wf = true) ∧
      ∀ m' : Memory, m.wf = true → m'.wf = true → (∀ k, m.read k = m'.read k) → m = m'

/-- R62, R402: an access at an address not below `BUS_SIZE` is `Fatal(OutOfRange)`, which names the address; every other
access succeeds. In either engine. -/
def Obligations.BusRange : Prop :=
  ∀ (p : Params) (st : SeqState) (sim : SimState) (a : Addr) (v : Byte),
    (p.busSize ≤ a.toNat →
      st.memRead p a = .error (.outOfRange a) ∧ st.memWrite p a v = .error (.outOfRange a) ∧
        sim.memRead p a = .error (.outOfRange a) ∧ sim.memWrite p a v = .error (.outOfRange a)) ∧
    (a.toNat < p.busSize →
      st.memRead p a = .ok (st.mem.read a.toNat) ∧ st.memWrite p a v = .ok { st with mem := st.mem.write a.toNat v } ∧
        sim.memRead p a = .ok (sim.mem.read a.toNat) ∧
        sim.memWrite p a v = .ok { sim with mem := sim.mem.write a.toNat v })

/-- R32, R33: the eight flags are bits 0 to 7 of `P` in the listed order; `setNZ` writes `N` and `Z` alone; a pull keeps
bits 4 and 5; `PHP` and `BRK` push both set, IRQ and NMI push bit 5 set and bit 4 clear. -/
def Obligations.StatusByte : Prop :=
  ∀ (p m v : Byte) (f g : Flag) (b : Bool),
    [Flag.c, .z, .i, .d, .b, .u, .v, .n].map Flag.pos = [0, 1, 2, 3, 4, 5, 6, 7] ∧
    getFlag p f = p.getLsbD f.pos ∧
    getFlag (setFlag p f b) g = (if g = f then b else getFlag p g) ∧
    setNZ p v = withFlags p [(.z, decide (v = 0)), (.n, v.getLsbD 7)] ∧
    getFlag (pulledStatus p m) f = (if f = .b ∨ f = .u then getFlag p f else getFlag m f) ∧
    getFlag (pushedBreak p) f = (if f = .b ∨ f = .u then true else getFlag p f) ∧
    getFlag (pushedIrq p) f = (if f = .b then false else if f = .u then true else getFlag p f)

/-- R39, R415, R443: what `PowerOn()` leaves. For any power-on values ("any value", D16), any circuit and any memory
images, the first `PowerOn()` leaves the values it found, the eight-element reset sequence in `Q`, no NMI pending and
`nmiPrev = nmiLine`; a later call replaces `Q` and the NMI bits and writes no register, latch or memory byte. -/
def Obligations.PowerOnLeaves : Prop :=
  (∀ (p : Params) (v : PowerOnValues) (net : Net) (m m' : Memory),
    let st := (State.built p v net m m').seq
    st.regs = { a := v.a, x := v.x, y := v.y, s := v.s, p := v.p, pc := v.pc } ∧
      st.q = resetSequence ∧ st.q.length = 8 ∧ st.nmiPending = false ∧ st.nmiPrev = st.nmiLine ∧ st.mem = m ∧
      (State.built p v net m m').host = []) ∧
  ∀ (s : State) (rest : List HostCmd), s.host = .seqPowerOn :: rest →
    step s = .next { s with
      host := rest
      seq := { s.seq with q := resetSequence, nmiPending := false, nmiPrev := s.seq.nmiLine } }

/-- R415 (its decision is D14): the reset sequence, run to its end by one step from any state that has just been powered
on: seven reads and no write, `S` down by three, `P.I` set, the reset vector in `ADH:ADL`, whence it goes to `PC`; `A`,
`X`, `Y`, the other flags and memory are kept. -/
def Obligations.ResetSequence : Prop :=
  ∀ s : State, FullBus s → s.host = [] → s.seq.q = resetSequence → s.seq.nmiPrev = s.seq.nmiLine →
    (∃ t, step s = .next t ∧
      t.seq.regs = { s.seq.regs with s := s.seq.s - 3, p := withFlags s.seq.p [(.i, true)] } ∧
      t.seq.q = [.setPcAd] ∧ t.seq.ready.q = [] ∧
      t.seq.ready.pc = cat (s.seq.peek 0xFFFD) (s.seq.peek 0xFFFC) ∧
      t.seq.mem = s.seq.mem ∧ Undisturbed s t) ∧
    s.seq.busTrace s.params 7 =
      [s.seq.readOf s.seq.pc, s.seq.readOf s.seq.pc, s.seq.readOf (cat 0x01 s.seq.s),
       s.seq.readOf (cat 0x01 (s.seq.s - 1)), s.seq.readOf (cat 0x01 (s.seq.s - 2)), s.seq.readOf 0xFFFC,
       s.seq.readOf 0xFFFD]

/-! ### Decoding -/

/-- R91, R96: the words of one instruction of every format, written out from the table. -/
def Obligations.OpcodeWords : Prop :=
  decode [0xAA] = .ok (⟨.tax, []⟩, []) ∧
  decode [0x0A, 0x11] = .ok (⟨.aslAcc, []⟩, [0x11]) ∧
  decode [0xA9, 0xF1] = .ok (⟨.ldaImm, [0xF1]⟩, []) ∧
  decode [0x24, 0x10, 0x22] = .ok (⟨.bitZp, [0x10]⟩, [0x22]) ∧
  decode [0x95, 0x10] = .ok (⟨.staZpx, [0x10]⟩, []) ∧
  decode [0xB6, 0x10] = .ok (⟨.ldxZpy, [0x10]⟩, []) ∧
  decode [0x20, 0x00, 0x06] = .ok (⟨.jsr, [0x00, 0x06]⟩, []) ∧
  decode [0xFE, 0xF0, 0x12] = .ok (⟨.incAbx, [0xF0, 0x12]⟩, []) ∧
  decode [0xBB, 0xF0, 0x12] = .ok (⟨.lasAby, [0xF0, 0x12]⟩, []) ∧
  decode [0x6C, 0xFF, 0x34] = .ok (⟨.jmpInd, [0xFF, 0x34]⟩, []) ∧
  decode [0xA1, 0xFF] = .ok (⟨.ldaIzx, [0xFF]⟩, []) ∧
  decode [0x91, 0x20] = .ok (⟨.staIzy, [0x20]⟩, []) ∧
  decode [0x90, 0x7F] = .ok (⟨.bcc, [0x7F]⟩, []) ∧
  decode [0x00, 0xEA] = .ok (⟨.brk, [0xEA]⟩, []) ∧
  decode [0x8B, 0xFF] = .ok (⟨.unk8B, []⟩, [0xFF])

/-- R90, R93, R173: decoding is total and the opcode byte alone decides. Every byte selects one instruction, whose row
carries that byte; every instruction is selected by its byte; a sequence exists for every byte, it begins with the opcode
cycle, and its length is the row's cycle count but for the penalty cycles it always enqueues and the free tail. What is
decoded encodes to the bytes it came from. -/
def Obligations.DecodingTotal : Prop :=
  (∀ b : Byte, (decodeOpcode b).opcode = b) ∧ (∀ i : Instr, decodeOpcode i.opcode = i) ∧
  (∀ b : Byte, ∃ ops, decodeSequence b = .ok (.opc :: ops) ∧
    (ops.filter (fun op => !op.isFree)).length + 1 =
      (decodeOpcode b).cycles + (match (decodeOpcode b).row.penalty with
        | .none => 0
        | .page => 1
        | .takenPage => 2)) ∧
  ∀ (bytes rest : List Byte) (c : Asm), decode bytes = .ok (c, rest) →
    c.wellFormed = true ∧ encode c ++ rest = bytes

/-- R90, R91, R96: decoding the encoding of any instruction with any operand bytes gives it back, whatever follows. -/
def Obligations.EncodeThenDecode : Prop :=
  ∀ (c : Asm) (rest : List Byte), c.wellFormed = true → decode (encode c ++ rest) = .ok (c, rest)

/-! ### A step -/

/-- R171: between instructions, with no interrupt due, a step runs the instruction its bytes at `PC` decode to, after the
NMI sample (`nmiPrev <- nmiLine`) and, where a free tail is still to run, after `PC <- ADH:ADL` (R172, R451). The step is
the model's own grouping of `Clock()` calls (log entry 6). -/
def Obligations.DecodedStep : Prop :=
  ∀ (s : State) (c : Asm) (rest : List Byte), s.host = [] → s.seq.ready.q = [] → s.seq.ready.pc.toNat < s.params.busSize →
    s.seq.ready.nmiPending = false → (s.seq.irqLine = true → getFlag s.seq.p .i = true) →
    decode [s.seq.peek s.seq.ready.pc, s.seq.peek (s.seq.ready.pc + 1), s.seq.peek (s.seq.ready.pc + 2)] =
      .ok (c, rest) →
    step s = exec c.instr (s.setSeq s.seq.ready)

/-- R171, R172, R411: what a `Clock()` does before its cycle. An edge of `nmiLine` since the previous call makes an NMI
pending, and the line is remembered; the free tail, and nothing else of a queue, is run off. -/
def Obligations.BeforeTheCycle : Prop :=
  ∀ st : SeqState,
    let pending := st.nmiPending || (st.nmiLine && !st.nmiPrev)
    (st.q = [] → st.ready = { st with nmiPending := pending, nmiPrev := st.nmiLine }) ∧
    (st.q = [.setPcAd] → st.ready = { st with
      nmiPending := pending, nmiPrev := st.nmiLine, pc := cat st.adh st.adl, q := [] }) ∧
    (∀ op rest, st.q = op :: rest → op.isFree = false →
      st.ready = { st with nmiPending := pending, nmiPrev := st.nmiLine })

/-- R413, R414, R416 (the recognition rules are decision D11, the sequence D13): at an instruction boundary a pending NMI
is taken, else an asserted IRQ that `P.I` does not mask; the entry pushes `PC` and the status byte with bit 5 set and bit 4
clear, sets `P.I` and goes through the vector; taking an NMI clears `nmiPending`. -/
def Obligations.InterruptEntry : Prop :=
  ∀ s : State, FullBus s → s.host = [] → s.seq.ready.q = [] →
    (s.seq.ready.nmiPending = true → ∃ t, step s = .next t ∧
      Entered (s.setSeq { s.seq.ready with nmiPending := false }) t s.seq.ready.pc ((s.seq.p ||| 0x20) &&& 0xEF) 0xFFFA) ∧
    (s.seq.ready.nmiPending = false → s.seq.irqLine = true → getFlag s.seq.p .i = false → ∃ t, step s = .next t ∧
      Entered (s.setSeq s.seq.ready) t s.seq.ready.pc ((s.seq.p ||| 0x20) &&& 0xEF) 0xFFFE)

/-- R413 (decision D11): "an instruction in flight ... is never abandoned or altered". A step that finds a sequence in
flight runs what is left of it to its end: it is the `Clock()` calls up to the first instruction boundary, and no earlier
one is at a boundary. Whatever the interrupt lines are meanwhile, the registers, latches, memory and queue it leaves are
the same; a request stays pending. -/
def Obligations.InFlightFinishes : Prop :=
  ∀ s : State, FullBus s → s.host = [] → QueueShape s.seq.q → s.seq.ready.q ≠ [] →
    ∃ t, step s = .next t ∧ finish s.params s.seq.ready.q.length s.seq.ready = .ok t.seq ∧ t = s.setSeq t.seq ∧
      (t.seq.q = [] ∨ t.seq.q = [.setPcAd]) ∧
      (∃ n, s.seq.clocks s.params (n + 1) = .ok t.seq ∧
        ∀ k st, 1 ≤ k → k ≤ n → s.seq.clocks s.params k = .ok st → st.q ≠ [] ∧ st.q ≠ [.setPcAd]) ∧
      t.seq.nmiPending = s.seq.ready.nmiPending ∧ t.seq.irqLine = s.seq.irqLine ∧ t.seq.nmiLine = s.seq.nmiLine ∧
      ∀ irq nmi prev pending, ∃ pending',
        step (s.setSeq { s.seq with irqLine := irq, nmiLine := nmi, nmiPrev := prev, nmiPending := pending }) =
          .next (t.setSeq { t.seq with irqLine := irq, nmiLine := nmi, nmiPrev := nmi, nmiPending := pending' })

/-- R414, R417: "The pushed `PC` is the address of the instruction that would have run next, so `RTI` resumes exactly
there". An `RTI` right after the entry restores every register and flag; after `BRK` it resumes two bytes past it. -/
def Obligations.ResumeAfterInterrupt : Prop :=
  ∀ (s t : State), FullBus s →
    (∀ v, v = nmiVector ∨ v = irqVector → takeInterrupt v s = .next t →
      ∃ u, exec .rti t = .next u ∧ u.seq.regs = s.seq.regs ∧ u.seq.q = [] ∧ ∀ b, u.seq.peek b = t.seq.peek b) ∧
    (exec .brk s = .next t →
      ∃ u, exec .rti t = .next u ∧ u.seq.regs = { s.seq.regs with pc := s.seq.pc + 2 } ∧ u.seq.q = [] ∧
        ∀ b, u.seq.peek b = t.seq.peek b)

/-- R170, R171: a step of the model (log entry 6) is a whole number of `Clock()` calls, at least one and at most eight,
and nothing else: the same state after them, or the same fault. -/
def Obligations.StepIsCycles : Prop :=
  ∀ s : State, FullBus s → s.host = [] → QueueShape s.seq.q →
    ∃ n st, 1 ≤ n ∧ n ≤ 8 ∧ s.seq.clocks s.params n = .ok st ∧ step s = .next (s.setSeq st)

/-- R94, R215: how many `Clock()` calls each of the 256 instructions takes: the base count, one more where an indexed read
crosses a page, one more for a taken branch and one more again where it crosses a page. -/
def Obligations.CycleCounts : Prop :=
  ∀ s : State, FullBus s → s.host = [] → s.seq.Idle →
    let i := decodeOpcode (s.seq.peek s.seq.pc)
    ∃ st, s.seq.clocks s.params (cycleCount i s.seq) = .ok st ∧ step s = .next (s.setSeq st)

/-- R180 to R208: every bus access of every instruction, with its address, direction and data, in order. -/
def Obligations.BusTraces : Prop :=
  ∀ s : State, FullBus s → s.seq.Idle →
    let i := decodeOpcode (s.seq.peek s.seq.pc)
    s.seq.busTrace s.params (cycleCount i s.seq) = instrTrace i s.params.decimalMode s.seq

/-- R65, R170 (decision D10): every `Clock()` makes exactly one bus access. -/
def Obligations.OneAccessPerCycle : Prop :=
  ∀ (p : Params) (st st' : SeqState), QueueShape st.q → st.clock p = .ok st' →
    ∃ x, st.busAccess p = some x ∧ st.busTrace p 1 = [x]

/-- R36 (a derived rule of the spec): the queue keeps its shape, at every step and every call of the host; between two
`Clock()` calls it holds at most seven operations. -/
def Obligations.QueueShapeKept : Prop :=
  (∀ s t : State, QueueShape s.seq.q → step s = .next t → QueueShape t.seq.q) ∧
  ∀ (p : Params) (st st' : SeqState), QueueShape st.q → st.clock p = .ok st' → st'.q.length ≤ 7

/-- Both memories keep their canonical form at every step and every call of the host (the form is the model's own, log
entry 5). -/
def Obligations.MemoryFormKept : Prop :=
  ∀ s t : State, MemoryForm s → step s = .next t → MemoryForm t

/-- The state after reset meets the invariants: canonical memory, the queue's shape, a network that holds together. -/
def Obligations.ResetMeetsInvariants : Prop :=
  MemoryForm State.reset ∧ QueueShape State.reset.seq.q ∧ Conductive State.reset.sim

/-- R33, R443: "`P[5:4]` stays `P0[5:4]` for ever": no step and no call of the host changes bits 4 and 5 of `P`. -/
def Obligations.BreakUnusedKept : Prop :=
  ∀ s t : State, step s = .next t →
    getFlag t.seq.p .b = getFlag s.seq.p .b ∧ getFlag t.seq.p .u = getFlag s.seq.p .u

/-- R2, R6: neither engine reaches the other, and nothing writes a parameter. The list of pending calls is the model's own
(log entry 8): a step takes the oldest. -/
def Obligations.EnginesIndependent : Prop :=
  ∀ s t : State, step s = .next t →
    t.params = s.params ∧
    (s.host = [] → t.sim = s.sim ∧ t.host = []) ∧
    (∀ c rest, s.host = c :: rest → t.host = rest ∧
      (c.onSim = true → t.seq = s.seq) ∧ (c.onSim = false → t.sim = s.sim))

/-- R229, R453: no result depends on a latch left by an earlier instruction. Two machines that differ in latches alone,
between instructions, just powered on, or with the same free tail to come, stay so at every step of SEQ: the same
registers, flags, memory, inputs and queue, and the same `ADH:ADL` where a free tail is left for it. -/
def Obligations.LatchesUnobservable : Prop :=
  ∀ (s : State) (st : SeqState), FullBus s → s.host = [] → LatchAlike s.seq st →
    ∃ t u, step s = .next t ∧ step (s.setSeq st) = .next (t.setSeq u) ∧ LatchAlike t.seq u

/-- R458, R404: with the whole address space on the bus, SEQ never stops: no fault and no refusal, in any state and on
any byte. -/
def Obligations.SeqNeverStops : Prop :=
  ∀ s : State, FullBus s → s.host = [] → ∃ t, step s = .next t

/-! ### Loads, stores, transfers -/

/-- R230 to R232: `LDA`, `LDX`, `LDY`, every form. -/
def Obligations.LoadResults : Prop :=
  ∀ s : State, FullBus s →
    let r := s.seq.regs
    ReadsTo ldaForms s (fun m => { r with a := m, p := withFlags r.p [(.n, m.msb), (.z, m == 0)] }) ∧
    ReadsTo ldxForms s (fun m => { r with x := m, p := withFlags r.p [(.n, m.msb), (.z, m == 0)] }) ∧
    ReadsTo ldyForms s (fun m => { r with y := m, p := withFlags r.p [(.n, m.msb), (.z, m == 0)] })

/-- R233 to R235: `STA`, `STX`, `STY`, every form: one byte is stored, no flag is written. -/
def Obligations.StoreResults : Prop :=
  ∀ s : State, FullBus s →
    StoresTo staForms s s.seq.a ∧ StoresTo stxForms s s.seq.x ∧ StoresTo styForms s s.seq.y

/-- R236 to R241: the six transfers; `TXS` alone writes no flag. -/
def Obligations.TransferResults : Prop :=
  ∀ s : State, FullBus s →
    let r := s.seq.regs
    Registers [taxForm] s { r with x := r.a, p := withFlags r.p [(.n, r.a.msb), (.z, r.a == 0)] } ∧
    Registers [tayForm] s { r with y := r.a, p := withFlags r.p [(.n, r.a.msb), (.z, r.a == 0)] } ∧
    Registers [txaForm] s { r with a := r.x, p := withFlags r.p [(.n, r.x.msb), (.z, r.x == 0)] } ∧
    Registers [tyaForm] s { r with a := r.y, p := withFlags r.p [(.n, r.y.msb), (.z, r.y == 0)] } ∧
    Registers [tsxForm] s { r with x := r.s, p := withFlags r.p [(.n, r.s.msb), (.z, r.s == 0)] } ∧
    Registers [txsForm] s { r with s := r.x }

/-! ### Arithmetic and logic -/

/-- R263 with R260: `ADC`, every form. Binary: the exact sum, its carry out of bit 7, and the signed overflow as a range
of the exact signed sum. Decimal (`DECIMAL_MODE = nmos` and `P.D = 1`): `AddDecimal` of R261. -/
def Obligations.AdcResults : Prop :=
  ∀ s : State, FullBus s →
    let r := s.seq.regs
    let c := getFlag r.p .c
    (s.params.decimalMode = .binaryOnly ∨ getFlag r.p .d = false →
      ReadsTo adcForms s (fun m =>
        let sum := r.a.toNat + m.toNat + bit c
        let signed := r.a.toInt + m.toInt + bit c
        let v : Byte := BitVec.ofNat 8 sum
        { r with
          a := v
          p := withFlags r.p [(.n, v.msb), (.v, decide (signed < -128 ∨ 127 < signed)), (.z, v == 0),
            (.c, decide (255 < sum))] })) ∧
    (s.params.decimalMode = .nmos → getFlag r.p .d = true →
      ReadsTo adcForms s (fun m => { r with a := (addDecimal r.p r.a m c).a, p := (addDecimal r.p r.a m c).p }))

/-- R264 with R282: `SBC`, every form, and its undocumented twin 0xEB (R364). Binary: the exact difference with the
borrow, the carry as its inverse, the signed overflow as a range. Decimal: `SubDecimal` of R262. -/
def Obligations.SbcResults : Prop :=
  ∀ s : State, FullBus s →
    let r := s.seq.regs
    let c := getFlag r.p .c
    (s.params.decimalMode = .binaryOnly ∨ getFlag r.p .d = false →
      ReadsTo (sbcForms ++ sbcTwinForms) s (fun m =>
        let diff : Int := r.a.toNat - m.toNat - (1 - bit c)
        let signed := r.a.toInt - m.toInt - (1 - bit c)
        let v : Byte := BitVec.ofInt 8 diff
        { r with
          a := v
          p := withFlags r.p [(.n, v.msb), (.v, decide (signed < -128 ∨ 127 < signed)), (.z, v == 0),
            (.c, decide (0 ≤ diff))] })) ∧
    (s.params.decimalMode = .nmos → getFlag r.p .d = true →
      ReadsTo (sbcForms ++ sbcTwinForms) s
        (fun m => { r with a := (subDecimal r.p r.a m c).a, p := (subDecimal r.p r.a m c).p }))

/-- R261, R262: the two decimal algorithms in exact integers, digit by digit: the result, and every flag; `N` and `V` of an
addition come from the sum before its high digit is corrected, `Z` from the binary sum; the flags of a subtraction are
those of the binary one. So on valid binary-coded decimal operands they add and subtract in decimal (two digits, with the
carry or borrow). -/
def Obligations.DecimalDigits : Prop :=
  ∀ (p a m : Byte) (c : Bool),
    let high := fun (v : Byte) => v.toNat / 16
    let low := fun (v : Byte) => v.toNat % 16
    let dec := fun (v : Byte) => 10 * high v + low v
    let valid := fun (v : Byte) => high v ≤ 9 ∧ low v ≤ 9
    let units := low a + low m + bit c
    let carried := if 10 ≤ units then (units + 6) % 16 + 16 else units
    let sum := 16 * high a + 16 * high m + carried
    let signed : Int := (a &&& 0xF0).toInt + (m &&& 0xF0).toInt + carried
    let unitsLeft : Int := low a - low m - (1 - bit c)
    let borrowed := if unitsLeft < 0 then (unitsLeft - 6) % 16 - 16 else unitsLeft
    let diff : Int := 16 * high a - 16 * high m + borrowed
    addDecimal p a m c =
      { a := BitVec.ofNat 8 (if 0xA0 ≤ sum then sum + 0x60 else sum)
        p := withFlags p [(.n, sum.testBit 7), (.v, decide (signed < -128 ∨ 127 < signed)),
          (.z, decide ((a.toNat + m.toNat + bit c) % 256 = 0)), (.c, decide (0xA0 ≤ sum))] } ∧
    subDecimal p a m c =
      { a := BitVec.ofInt 8 (if diff < 0 then diff - 0x60 else diff), p := (addBinary p a (m ^^^ 0xFF) c).p } ∧
    (valid a → valid m →
      valid (addDecimal p a m c).a ∧ dec (addDecimal p a m c).a = (dec a + dec m + bit c) % 100 ∧
      getFlag (addDecimal p a m c).p .c = decide (100 ≤ dec a + dec m + bit c) ∧
      valid (subDecimal p a m c).a ∧
      (dec (subDecimal p a m c).a : Int) = ((dec a : Int) - dec m - (1 - bit c)) % 100 ∧
      getFlag (subDecimal p a m c).p .c = decide (dec m + (1 - bit c) ≤ dec a))

/-- R265 to R268: `AND`, `ORA`, `EOR`, `BIT`, every form. -/
def Obligations.LogicResults : Prop :=
  ∀ s : State, FullBus s →
    let r := s.seq.regs
    ReadsTo andForms s (fun m =>
      { r with a := r.a &&& m, p := withFlags r.p [(.n, (r.a &&& m).msb), (.z, r.a &&& m == 0)] }) ∧
    ReadsTo oraForms s (fun m =>
      { r with a := r.a ||| m, p := withFlags r.p [(.n, (r.a ||| m).msb), (.z, r.a ||| m == 0)] }) ∧
    ReadsTo eorForms s (fun m =>
      { r with a := r.a ^^^ m, p := withFlags r.p [(.n, (r.a ^^^ m).msb), (.z, r.a ^^^ m == 0)] }) ∧
    ReadsTo bitForms s (fun m =>
      { r with p := withFlags r.p [(.n, m.getLsbD 7), (.v, m.getLsbD 6), (.z, r.a &&& m == 0)] })

/-- R269 to R271: `CMP`, `CPX`, `CPY`, every form: unsigned comparison, no register changed, `V` kept. -/
def Obligations.CompareResults : Prop :=
  ∀ s : State, FullBus s →
    let r := s.seq.regs
    let flags := fun (v m : Byte) => withFlags r.p
      [(.n, (v - m).msb), (.z, decide (v = m)), (.c, decide (m.toNat ≤ v.toNat))]
    ReadsTo cmpForms s (fun m => { r with p := flags r.a m }) ∧
    ReadsTo cpxForms s (fun m => { r with p := flags r.x m }) ∧
    ReadsTo cpyForms s (fun m => { r with p := flags r.y m })

/-- R272, R273, R278 to R281: `INC`, `DEC` and the memory forms of the four shifts. -/
def Obligations.MemoryModifyResults : Prop :=
  ∀ s : State, FullBus s →
    let r := s.seq.regs
    let c := getFlag r.p .c
    let nz := fun (v : Byte) => [(Flag.n, v.msb), (Flag.z, v == 0)]
    let rol := fun (m : Byte) => (m <<< 1) ||| (if c then 1 else 0)
    let ror := fun (m : Byte) => (m >>> 1) ||| (if c then 0x80 else 0)
    Modifies incForms s (fun m => m + 1) (fun m => { r with p := withFlags r.p (nz (m + 1)) }) ∧
    Modifies decForms s (fun m => m - 1) (fun m => { r with p := withFlags r.p (nz (m - 1)) }) ∧
    Modifies aslMemForms s (fun m => m <<< 1)
      (fun m => { r with p := withFlags r.p ((.c, m.getLsbD 7) :: nz (m <<< 1)) }) ∧
    Modifies lsrMemForms s (fun m => m >>> 1)
      (fun m => { r with p := withFlags r.p ((.c, m.getLsbD 0) :: nz (m >>> 1)) }) ∧
    Modifies rolMemForms s rol (fun m => { r with p := withFlags r.p ((.c, m.getLsbD 7) :: nz (rol m)) }) ∧
    Modifies rorMemForms s ror (fun m => { r with p := withFlags r.p ((.c, m.getLsbD 0) :: nz (ror m)) })

/-- R274 to R281: `INX`, `INY`, `DEX`, `DEY` and the accumulator forms of the four shifts. -/
def Obligations.RegisterModifyResults : Prop :=
  ∀ s : State, FullBus s →
    let r := s.seq.regs
    let c := getFlag r.p .c
    let nz := fun (v : Byte) => [(Flag.n, v.msb), (Flag.z, v == 0)]
    let rol := (r.a <<< 1) ||| (if c then 1 else 0)
    let ror := (r.a >>> 1) ||| (if c then 0x80 else 0)
    Registers [inxForm] s { r with x := r.x + 1, p := withFlags r.p (nz (r.x + 1)) } ∧
    Registers [inyForm] s { r with y := r.y + 1, p := withFlags r.p (nz (r.y + 1)) } ∧
    Registers [dexForm] s { r with x := r.x - 1, p := withFlags r.p (nz (r.x - 1)) } ∧
    Registers [deyForm] s { r with y := r.y - 1, p := withFlags r.p (nz (r.y - 1)) } ∧
    Registers aslAccForms s
      { r with a := r.a <<< 1, p := withFlags r.p ((.c, r.a.getLsbD 7) :: nz (r.a <<< 1)) } ∧
    Registers lsrAccForms s
      { r with a := r.a >>> 1, p := withFlags r.p ((.c, r.a.getLsbD 0) :: nz (r.a >>> 1)) } ∧
    Registers rolAccForms s { r with a := rol, p := withFlags r.p ((.c, r.a.getLsbD 7) :: nz rol) } ∧
    Registers rorAccForms s { r with a := ror, p := withFlags r.p ((.c, r.a.getLsbD 0) :: nz ror) }

/-! ### Control, stack, flags -/

/-- R300 to R308: the eight branches: to `next + sext_16(d)` when the condition holds, to `next` otherwise; no flag and no
other register is written. -/
def Obligations.BranchResults : Prop :=
  ∀ s : State, FullBus s →
    let r := s.seq.regs
    let d := s.seq.peek (r.pc + 1)
    let target : Addr := r.pc + 2 + (if d.getLsbD 7 then 0xFF00 + d.setWidth 16 else d.setWidth 16)
    ∀ e ∈ [(bplForm, Flag.n, false), (bmiForm, .n, true), (bvcForm, .v, false), (bvsForm, .v, true),
        (bccForm, .c, false), (bcsForm, .c, true), (bneForm, .z, false), (beqForm, .z, true)],
      e.1.coded ∧
      Completes e.1.instr s { r with pc := if getFlag r.p e.2.1 = e.2.2 then target else r.pc + 2 } []

/-- R309 to R312: `JMP`, `JMP` indirect with its page wrap, `JSR` (whose pushes come before the third byte is fetched) and
`RTS`. -/
def Obligations.JumpResults : Prop :=
  ∀ s : State, FullBus s →
    let r := s.seq.regs
    let b1 := s.seq.peek (r.pc + 1)
    let b2 := s.seq.peek (r.pc + 2)
    let pushes := [(cat 0x01 r.s, hiByte (r.pc + 2)), (cat 0x01 (r.s - 1), loByte (r.pc + 2))]
    (∀ c ∈ [jmpForm, jmpIndForm, jsrForm, rtsForm], c.coded) ∧
    Completes .jmpAbs s { r with pc := cat b2 b1 } [] ∧
    Completes .jmpInd s { r with pc := cat (s.seq.peek (cat b2 (b1 + 1))) (s.seq.peek (cat b2 b1)) } [] ∧
    Completes .jsr s { r with s := r.s - 2, pc := cat (s.seq.peekAfter pushes (r.pc + 2)) b1 } pushes ∧
    Completes .rts s
      { r with
        s := r.s + 2
        pc := cat (s.seq.peek (cat 0x01 (r.s + 2))) (s.seq.peek (cat 0x01 (r.s + 1))) + 1 } []

/-- R327: "`JSR` pushes the return address minus one ... and `RTS` undoes it": a return right after a call resumes at the
instruction after the `JSR`, with every register as before the call. -/
def Obligations.CallAndReturn : Prop :=
  ∀ s t : State, FullBus s → exec .jsr s = .next t →
    Completes .rts t { s.seq.regs with pc := s.seq.pc + 3 } []

/-- R314: `BRK`: the address two past the opcode and `P` with bits 4 and 5 set are pushed, `P.I` is set, and control goes
through `IRQ_VECTOR`, masked or not (R405). -/
def Obligations.BrkResult : Prop :=
  ∀ s : State, FullBus s →
    brkForm.coded ∧ ∃ t, exec .brk s = .next t ∧ Entered s t (s.seq.pc + 2) (s.seq.p ||| 0x30) 0xFFFE

/-- R313: `RTI`: six flags from the first pulled byte, then `PCL`, then `PCH`; bits 4 and 5 of `P` are kept. -/
def Obligations.RtiResult : Prop :=
  ∀ s : State, FullBus s →
    let r := s.seq.regs
    rtiForm.coded ∧
    Completes .rti s
      { r with
        s := r.s + 3
        p := (r.p &&& 0x30) ||| (s.seq.peek (cat 0x01 (r.s + 1)) &&& 0xCF)
        pc := cat (s.seq.peek (cat 0x01 (r.s + 3))) (s.seq.peek (cat 0x01 (r.s + 2))) } []

/-- R316 to R319: `PHA`, `PHP`, `PLA`, `PLP`. -/
def Obligations.StackResults : Prop :=
  ∀ s : State, FullBus s →
    let r := s.seq.regs
    let m := s.seq.peek (cat 0x01 (r.s + 1))
    (∀ c ∈ [phaForm, phpForm, plaForm, plpForm], c.coded) ∧
    Completes .pha s { r with s := r.s - 1, pc := r.pc + 1 } [(cat 0x01 r.s, r.a)] ∧
    Completes .php s { r with s := r.s - 1, pc := r.pc + 1 } [(cat 0x01 r.s, r.p ||| 0x30)] ∧
    Completes .pla s
      { r with a := m, s := r.s + 1, p := withFlags r.p [(.n, m.msb), (.z, m == 0)], pc := r.pc + 1 } [] ∧
    Completes .plp s
      { r with
        s := r.s + 1
        p := withFlags r.p [(.n, getFlag m .n), (.v, getFlag m .v), (.d, getFlag m .d), (.i, getFlag m .i),
          (.z, getFlag m .z), (.c, getFlag m .c)]
        pc := r.pc + 1 } []

/-- R320 to R326: "Each writes the one flag it names and nothing else." -/
def Obligations.FlagResults : Prop :=
  ∀ s : State, FullBus s →
    ∀ e ∈ [(clcForm, Flag.c, false), (secForm, .c, true), (cliForm, .i, false), (seiForm, .i, true),
        (clvForm, .v, false), (cldForm, .d, false), (sedForm, .d, true)],
      Registers [e.1] s { s.seq.regs with p := withFlags s.seq.p [(e.2.1, e.2.2)] }

/-- R315, R365 to R368: the no-ops, implied, immediate and with a memory operand, and the nineteen unknown opcodes change
no register, no flag and no byte, and move `PC` past their bytes (one for an unknown opcode). -/
def Obligations.NoOpResults : Prop :=
  ∀ s : State, FullBus s →
    Registers nopImpliedForms s s.seq.regs ∧
    ReadsTo nopReadForms s (fun _ => s.seq.regs) ∧
    Registers unkForms s s.seq.regs ∧
    ∀ c ∈ unkForms, c.instr.bytes = 1 ∧ c.instr.cycles = 2

/-! ### Undocumented composites -/

/-- R351 to R353: `SLO`, `RLA`, `SRE`, every form: shift the byte, store it, combine it with `A`. -/
def Obligations.ShiftLogicResults : Prop :=
  ∀ s : State, FullBus s →
    let r := s.seq.regs
    let c := getFlag r.p .c
    let nz := fun (v : Byte) => [(Flag.n, v.msb), (Flag.z, v == 0)]
    let rol := fun (m : Byte) => (m <<< 1) ||| (if c then 1 else 0)
    Modifies sloForms s (fun m => m <<< 1) (fun m =>
      { r with a := r.a ||| (m <<< 1), p := withFlags r.p ((.c, m.getLsbD 7) :: nz (r.a ||| (m <<< 1))) }) ∧
    Modifies rlaForms s rol (fun m =>
      { r with a := r.a &&& rol m, p := withFlags r.p ((.c, m.getLsbD 7) :: nz (r.a &&& rol m)) }) ∧
    Modifies sreForms s (fun m => m >>> 1) (fun m =>
      { r with a := r.a ^^^ (m >>> 1), p := withFlags r.p ((.c, m.getLsbD 0) :: nz (r.a ^^^ (m >>> 1))) })

/-- R354, R357, R358: `RRA`, `DCP`, `ISC`, every form: rotate right, decrement or increment the byte, store it, and add
it with the carry the rotate produced, compare it, or subtract it. Decimal mode applies as for `ADC` and `SBC`. -/
def Obligations.ArithmeticCompositeResults : Prop :=
  ∀ s : State, FullBus s →
    let r := s.seq.regs
    let c := getFlag r.p .c
    let ror := fun (m : Byte) => (m >>> 1) ||| (if c then 0x80 else 0)
    Modifies dcpForms s (fun m => m - 1) (fun m =>
      { r with p := withFlags r.p [(.n, (r.a - (m - 1)).msb), (.z, decide (r.a = m - 1)),
          (.c, decide ((m - 1).toNat ≤ r.a.toNat))] }) ∧
    (s.params.decimalMode = .binaryOnly ∨ getFlag r.p .d = false →
      Modifies rraForms s ror (fun m =>
        let sum := r.a.toNat + (ror m).toNat + bit (m.getLsbD 0)
        let signed := r.a.toInt + (ror m).toInt + bit (m.getLsbD 0)
        let v : Byte := BitVec.ofNat 8 sum
        { r with
          a := v
          p := withFlags r.p [(.n, v.msb), (.v, decide (signed < -128 ∨ 127 < signed)), (.z, v == 0),
            (.c, decide (255 < sum))] }) ∧
      Modifies iscForms s (fun m => m + 1) (fun m =>
        let diff : Int := r.a.toNat - (m + 1).toNat - (1 - bit c)
        let signed := r.a.toInt - (m + 1).toInt - (1 - bit c)
        let v : Byte := BitVec.ofInt 8 diff
        { r with
          a := v
          p := withFlags r.p [(.n, v.msb), (.v, decide (signed < -128 ∨ 127 < signed)), (.z, v == 0),
            (.c, decide (0 ≤ diff))] })) ∧
    (s.params.decimalMode = .nmos → getFlag r.p .d = true →
      Modifies rraForms s ror (fun m =>
        let o := addDecimal (withFlags r.p [(.c, m.getLsbD 0)]) r.a (ror m) (m.getLsbD 0)
        { r with a := o.a, p := o.p }) ∧
      Modifies iscForms s (fun m => m + 1) (fun m =>
        { r with a := (subDecimal r.p r.a (m + 1) c).a, p := (subDecimal r.p r.a (m + 1) c).p }))

/-- R355, R356, R363: `SAX`, `LAX`, `LAS`, every form. -/
def Obligations.CombinedLoadStoreResults : Prop :=
  ∀ s : State, FullBus s →
    let r := s.seq.regs
    StoresTo saxForms s (r.a &&& r.x) ∧
    ReadsTo laxForms s (fun m => { r with a := m, x := m, p := withFlags r.p [(.n, m.msb), (.z, m == 0)] }) ∧
    ReadsTo lasForms s (fun m =>
      let v := m &&& r.s
      { r with a := v, x := v, s := v, p := withFlags r.p [(.n, v.msb), (.z, v == 0)] })

/-- R359, R360, R362: `ANC` (both opcodes), `ALR`, `AXS`. -/
def Obligations.ImmediateCompositeResults : Prop :=
  ∀ s : State, FullBus s →
    let r := s.seq.regs
    ReadsTo ancForms s (fun m =>
      let v := r.a &&& m
      { r with a := v, p := withFlags r.p [(.n, v.msb), (.z, v == 0), (.c, v.getLsbD 7)] }) ∧
    ReadsTo alrForms s (fun m =>
      let v := (r.a &&& m) >>> 1
      { r with a := v, p := withFlags r.p [(.n, false), (.z, v == 0), (.c, (r.a &&& m).getLsbD 0)] }) ∧
    ReadsTo axsForms s (fun m =>
      let t := r.a &&& r.x
      { r with
        x := t - m
        p := withFlags r.p [(.n, (t - m).msb), (.z, decide (t = m)), (.c, decide (m.toNat ≤ t.toNat))] })

/-- R361: `ARR`. Binary: the rotated conjunction, with `C` and `V` from bits 6 and 5 of the result. Where `DECIMAL_MODE =
nmos` and `P.D = 1` the instruction still runs: `A` and the flags `N`, `V`, `Z`, `C` are free values (log entry 11), and
everything else is as the rule says. -/
def Obligations.ArrResults : Prop :=
  ∀ s : State, FullBus s →
    let r := s.seq.regs
    (s.params.decimalMode = .binaryOnly ∨ getFlag r.p .d = false →
      ReadsTo arrForms s (fun m =>
        let v := ((r.a &&& m) >>> 1) ||| (if getFlag r.p .c then 0x80 else 0)
        { r with
          a := v
          p := withFlags r.p [(.n, v.msb), (.v, v.getLsbD 6 ^^ v.getLsbD 5), (.z, v == 0), (.c, v.getLsbD 6)] })) ∧
    (s.params.decimalMode = .nmos → getFlag r.p .d = true →
      ∃ (t : State) (a : Byte) (n v z c : Bool), exec .arrImm s = .next t ∧
        t.seq.regs = { r with
          a := a, p := withFlags r.p [(.n, n), (.v, v), (.z, z), (.c, c)], pc := r.pc + 2 } ∧
        (∀ b, t.seq.peek b = s.seq.peek b) ∧ t.seq.q = [] ∧ t.seq.freeCount = s.seq.freeCount + 2 ∧
        Undisturbed s (t.setSeq { t.seq with freeCount := s.seq.freeCount }))

/-- R175 to R179: which latches an instruction can write. `EAL` and `EAH` only the pointer forms and the indirect `JMP`;
`ADL` and `ADH` only the forms with an address and the vector fetch; `DL` no implied, accumulator, push, `JMP`, `JSR` or
`BRK` instruction and no store. -/
def Obligations.LatchFrame : Prop :=
  ∀ (s t : State) (i : Instr), FullBus s → exec i s = .next t →
    (i.format ≠ .izx → i.format ≠ .izy → i.format ≠ .ind →
      t.seq.eal = s.seq.eal ∧ t.seq.eah = s.seq.eah) ∧
    (i.format = .imp ∨ i.format = .acc ∨ i.format = .imm ∨ i.format = .rel → i.cls ≠ .brk →
      t.seq.adl = s.seq.adl ∧ t.seq.adh = s.seq.adh) ∧
    (i.cls ∈ [AccessClass.imp, .acc, .unk, .push, .jmp, .jmpind, .jsr, .brk, .write] → t.seq.dl = s.seq.dl)

/-! ### The switch network -/

/-- R123: when `Setup` fails, and that a failing `Setup` is `Fatal(ConfigError)`. That a node index stands in one row and
that the rails differ is read from R20 and R23 (log entry 14). -/
def Obligations.SetupFaults : Prop :=
  ∀ (net : Net) (s : State) (rest : List HostCmd),
    let ids := fun (i : Nat) => i < net.nodeCount
    let good := ids net.gnd ∧ ids net.pwr ∧ net.gnd ≠ net.pwr ∧
      (∀ r ∈ net.nodeTable, ids r.index) ∧ (net.nodeTable.map (·.index)).Nodup ∧
      (net.nodeTable.filterMap (·.name)).Nodup ∧
      (∀ t ∈ net.transistorTable, ids t.gate ∧ ids t.terminal1 ∧ ids t.terminal2) ∧
      (net.transistorTable.map (·.name)).Nodup
    (good ↔ net.wellFormed = true) ∧ (good ↔ (setup net s.sim.mem).isSome) ∧
    (s.host = .simSetup net :: rest → ¬ good → step s = .fault .configError)

/-- R21, R24, R120 to R122, R440: what `Setup` builds. Every node low but `pwr`, undriven but for its table pull-up,
floating; one transistor per row in table order, a rail terminal in the second slot, on exactly when its gate is `pwr`;
each node's lists in table order; the bus untouched. Two clauses are the model's choice and no rule's: that a node with no row
in the node table has no pull-up and no name (log entry 14, DESIGN CHOICE), and that `phase` is `fresh` (the model's own
field, log entry 15). -/
def Obligations.SetupBuilds : Prop :=
  ∀ (net : Net) (m : Memory) (sim : SimState), setup net m = some sim →
    sim.nodes.length = net.nodeCount ∧ sim.transistors.length = net.transistorTable.length ∧
    sim.gnd = net.gnd ∧ sim.pwr = net.pwr ∧ sim.mem = m ∧ sim.phase = .fresh ∧
    (∀ i, i < net.nodeCount →
      (sim.node i).state = decide (i = net.pwr) ∧ (sim.node i).pullDown = false ∧ (sim.node i).floating = true ∧
      ((sim.node i).pullUp = true ↔ ∃ r ∈ net.nodeTable, r.index = i ∧ r.pullUp = true) ∧
      (∀ name, (sim.node i).name = some name ↔ ∃ r ∈ net.nodeTable, r.index = i ∧ r.name = some name) ∧
      (sim.node i).gates =
        (List.range sim.transistors.length).filter (fun t => (sim.trans t).gate == i) ∧
      (sim.node i).terminals =
        (List.range sim.transistors.length).flatMap (fun t =>
          (if (sim.trans t).t1 = i then [t] else []) ++ (if (sim.trans t).t2 = i then [t] else []))) ∧
    ∀ t r, net.transistorTable[t]? = some r →
      (sim.trans t).name = r.name ∧ (sim.trans t).gate = r.gate ∧ (sim.trans t).on = decide (r.gate = net.pwr) ∧
      (if r.terminal1 = net.gnd ∨ r.terminal1 = net.pwr
        then (sim.trans t).t1 = r.terminal2 ∧ (sim.trans t).t2 = r.terminal1
        else (sim.trans t).t1 = r.terminal1 ∧ (sim.trans t).t2 = r.terminal2)

/-- R23, R25, R133 (b): the network holds together at every step: the rails keep their fixed states, and every transistor
conducts exactly when its gate is high, after every call of the host, a new `Setup` included. -/
def Obligations.ConductiveKept : Prop :=
  ∀ s t : State, Conductive s.sim → step s = .next t → Conductive t.sim

/-- R125 to R127, R131, R133, D23: what a settle does. Its rounds are passes over the worklist, the first one the seeds
without duplicates or rails; it answers the network once a pass leaves an empty worklist, and it is
`Fatal(NonConvergence)`, its only failure, exactly when one is left after `SETTLE_ROUND_CAP` of them. Recalculating a node
gives every node of its group but the rails the group's value, turns every transistor on or off with its gate, and adds
both ends of every transistor it switched, but for rails, to the next worklist, once each; a rail is not recalculated.
`state` and `on` are all it writes, and no bus is touched; a settle of no node, and of the rails alone, changes nothing. -/
def Obligations.SettleFrame : Prop :=
  (∀ (p : Params) (sim : SimState) (seeds : List Nat),
    let first := sim.seedList seeds
    let last := Round.turn^[p.settleRoundCap] { sim := sim, next := first }
    first.Sublist seeds ∧ first.Nodup ∧ (∀ m, m ∈ first ↔ m ∈ seeds ∧ sim.isRail m = false) ∧
    sim.settle p seeds = (if last.next = [] then .ok last.sim else .error .nonConvergence) ∧
    (∀ sim', sim.settle p seeds = .ok sim' →
      SameCircuit sim sim' ∧ SameDrive sim sim' ∧ sim'.mem = sim.mem ∧ sim'.phase = sim.phase ∧
      SimState.roundCount p.settleRoundCap sim first ≤ p.settleRoundCap ∧
      Round.turn^[SimState.roundCount p.settleRoundCap sim first] { sim := sim, next := first } =
        { sim := sim', next := [] } ∧
      ∀ k, k < SimState.roundCount p.settleRoundCap sim first →
        (Round.turn^[k] { sim := sim, next := first }).next ≠ []) ∧
    ((∀ n ∈ seeds, sim.isRail n = true) → sim.settle p seeds = .ok sim) ∧
    (p.settleRoundCap = 0 → (∃ n ∈ seeds, sim.isRail n = false) → sim.settle p seeds = .error .nonConvergence)) ∧
  ∀ (r : Round) (n : Nat), Conductive r.sim → n < r.sim.nodes.length →
    (r.sim.isRail n = true → r.recalcNode n = r) ∧
    (r.sim.isRail n = false →
      let group := r.sim.buildGroup n
      let v := r.sim.groupValue group
      let r' := r.recalcNode n
      (∀ m, (r'.sim.node m).state =
        if m ∈ group ∧ r.sim.isRail m = false then v else (r.sim.node m).state) ∧
      (∀ t, t < r.sim.transistors.length → (r'.sim.trans t).on = (r'.sim.node (r.sim.trans t).gate).state) ∧
      (∀ m, m ∈ r'.next ↔ m ∈ r.next ∨
        r.sim.isRail m = false ∧ ∃ t, t < r.sim.transistors.length ∧ r.sim.Switched group v t ∧
          ((r.sim.trans t).t1 = m ∨ (r.sim.trans t).t2 = m)) ∧
      (∃ more, r'.next = r.next ++ more) ∧ (r.next.Nodup → r'.next.Nodup) ∧
      SameCircuit r.sim r'.sim ∧ SameDrive r.sim r'.sim ∧ r'.sim.mem = r.sim.mem)

/-- R20, R21, R120: "The network is static": no call of the host but `Setup` changes a node's lists or name, a
transistor's ends, or the rails. -/
def Obligations.CircuitFixed : Prop :=
  ∀ s t : State, step s = .next t → (∀ net rest, s.host ≠ .simSetup net :: rest) → SameCircuit s.sim t.sim

/-- R130: "If the group contains ground, value = false; if it contains power, value = true"; otherwise the first node at
which a test fires decides, a pull-up before a pull-down before a high state; a group where none fires is low. -/
def Obligations.GroupValueRule : Prop :=
  ∀ (sim : SimState) (group : List Nat),
    (sim.gnd ∈ group → sim.groupValue group = false) ∧
    (sim.gnd ∉ group → sim.pwr ∈ group → sim.groupValue group = true) ∧
    (sim.gnd ∉ group → sim.pwr ∉ group →
      (∀ g, sim.decider group = some g →
        sim.groupValue group = ((sim.node g).pullUp || !(sim.node g).pullDown)) ∧
      (sim.decider group = none → sim.groupValue group = false))

/-- R128: the group is what the walk reaches: exactly the nodes connected to the seed through transistors that are on, a
rail joining the group and not being walked through; no node stands in it twice; the seed stands first. -/
def Obligations.GroupIsReachable : Prop :=
  ∀ (sim : SimState) (n : Nat), Conductive sim → n < sim.nodes.length →
    (∀ m, m ∈ sim.buildGroup n ↔ Relation.ReflTransGen sim.Joins n m) ∧
    (sim.buildGroup n).Nodup ∧ (sim.buildGroup n).head? = some n

/-- R140 to R142: a pin write sets the two drive flags of the named node as the level says and clears `floating`, and
touches no other node's; then it settles, seeded with that node, and what that settle gives is what the call leaves, its
failure the call's. A missing name is `Fatal(ConfigError)`; a rail is refused (D24). -/
def Obligations.PinWrites : Prop :=
  ∀ (s : State) (name : String) (l : Level) (rest : List HostCmd), s.host = .simWriteBit name l :: rest →
    (∀ n, s.sim.lookup name = .ok n → s.sim.isRail n = false →
      (∀ sim', (s.sim.setNode n l).settle s.params [n] = .ok sim' →
        step s = .next ((s.setHost rest).setSim (s.sim.noteStep sim'))) ∧
      (∀ f, (s.sim.setNode n l).settle s.params [n] = .error f → step s = .fault f) ∧
      (∀ k, (s.sim.setNode n l).node k =
        if k = n then { s.sim.node k with pullUp := decide (l = .high), pullDown := decide (l = .low), floating := false }
        else s.sim.node k) ∧
      ∀ t, step s = .next t →
        (t.sim.node n).pullUp = decide (l = .high) ∧ (t.sim.node n).pullDown = decide (l = .low) ∧
        (t.sim.node n).floating = false ∧ t.sim.mem = s.sim.mem ∧
        ∀ k, k ≠ n → (t.sim.node k).pullUp = (s.sim.node k).pullUp ∧ (t.sim.node k).pullDown = (s.sim.node k).pullDown ∧
          (t.sim.node k).floating = (s.sim.node k).floating) ∧
    (∀ n, s.sim.lookup name = .ok n → (s.sim.node n).name = some name ∧
      (s.sim.isRail n = true → step s = .refused .simWriteToRail)) ∧
    ((∀ i, (s.sim.node i).name ≠ some name) → step s = .fault .configError)

/-- R142, R143: `ReadBits(prefix, n)`, `n` at most 16, is the number whose bit `k` is the state of the node `<prefix><k>`; the readers
change nothing; a missing name is `Fatal(ConfigError)`. -/
def Obligations.PinReads : Prop :=
  ∀ (s : State) (base : String) (n : Nat) (rest : List HostCmd), n ≤ 16 →
    (∀ v, s.sim.readBits base n = .ok v → v < 2 ^ n ∧
      ∀ k, k < n → s.sim.readBit (base ++ toString k) = .ok (v.testBit k)) ∧
    ((∀ k, k < n → ∃ i, (s.sim.node i).name = some (base ++ toString k)) →
      (∃ v, s.sim.readBits base n = .ok v) ∧ (s.host = .simReadBits base n :: rest → step s = .next (s.setHost rest))) ∧
    (∀ k, k < n → (∀ i, (s.sim.node i).name ≠ some (base ++ toString k)) →
      s.sim.readBits base n = .error .configError ∧
        (s.host = .simReadBits base n :: rest → step s = .fault .configError))

/-- R150, R151, R67: a half-clock toggles the drive of `clk0`. A fall of `clk0` stores nothing; where `rw` is then high the
byte at the address bus's address is driven onto the eight data pins, and where it is low nothing more happens. A rise
stores one byte, the data bus's at the address bus's address, where `rw` is then low, and nothing where it is high. -/
def Obligations.HalfClockBus : Prop :=
  ∀ (p : Params) (sim sim' : SimState), sim.halfClock p = .ok sim' →
    ∃ n, sim.lookup "clk0" = .ok n ∧
      ((sim.node n).state = true → (sim'.node n).pullDown = true ∧ (sim'.node n).pullUp = false ∧
        sim'.mem = sim.mem ∧
        ∃ mid, sim.writeBit p "clk0" .low = .ok mid ∧
          (mid.readBit "rw" = .ok false → sim' = mid) ∧
          (mid.readBit "rw" = .ok true → ∃ a, mid.readAddressBus = .ok a ∧ a.toNat < p.busSize ∧
            ∀ k, k < 8 → ∃ m, sim.lookup ("db" ++ toString k) = .ok m ∧
              (sim'.node m).pullUp = (sim.mem.read a.toNat).getLsbD k ∧
              (sim'.node m).pullDown = !(sim.mem.read a.toNat).getLsbD k ∧ (sim'.node m).floating = false)) ∧
      ((sim.node n).state = false → (sim'.node n).pullUp = true ∧ (sim'.node n).pullDown = false ∧
        (sim'.readBit "rw" = .ok true ∧ sim'.mem = sim.mem ∨
          sim'.readBit "rw" = .ok false ∧ ∃ a d, sim'.readAddressBus = .ok a ∧ sim'.readDataBus = .ok d ∧
            a.toNat < p.busSize ∧ sim'.mem = sim.mem.write a.toNat d))

/-- R441, R442, D24: the boot of SIM. `Init()` forces the six pins in order without a settle, settles every node in
ascending order, gives `clk0` eight pulses high and low, and releases `res`; it makes no bus access. `RunStartProgram()` is
nineteen half-clocks, and leaves `clk0` high where it began low and each half-clock left it at the level it was driven to.
`Init()` runs on the SIM `Setup` left and is refused on one that has been stepped; `RunStartProgram()` is refused before
it. Which calls step SIM is the model's own field `phase` (log entry 15): a half-clock or a pin write does, a call that
changes nothing does not. -/
def Obligations.BootOfSim : Prop :=
  (∀ (p : Params) (sim sim' : SimState), sim.init p = .ok sim' →
    ∃ res clk rdy so irq nmi, sim.lookup "res" = .ok res ∧ sim.lookup "clk0" = .ok clk ∧ sim.lookup "rdy" = .ok rdy ∧
      sim.lookup "so" = .ok so ∧ sim.lookup "irq" = .ok irq ∧ sim.lookup "nmi" = .ok nmi ∧
      (∃ settled pulsed,
        ((((((sim.setNode res .low).setNode clk .low).setNode rdy .high).setNode so .low).setNode irq .high).setNode nmi
          .high).settle p (List.range sim.nodes.length) = .ok settled ∧
        (List.replicate 8 [Level.high, .low]).flatten.foldlM (fun m l => m.writeBit p "clk0" l) settled = .ok pulsed ∧
        pulsed.writeBit p "res" .high = .ok sim') ∧
      sim'.mem = sim.mem ∧
      ∀ c ∈ [(res, Level.high), (clk, .low), (rdy, .high), (so, .low), (irq, .high), (nmi, .high)],
        (sim'.node c.1).pullUp = decide (c.2 = .high) ∧ (sim'.node c.1).pullDown = decide (c.2 = .low) ∧
          (sim'.node c.1).floating = false) ∧
  (∀ (p : Params) (sim : SimState),
    sim.runStartProgram p = (List.range 19).foldlM (fun m _ => m.halfClock p) sim ∧
    ∀ sim' n, sim.runStartProgram p = .ok sim' → sim.lookup "clk0" = .ok n → (sim.node n).state = false →
      (∀ k m, 1 ≤ k → k ≤ 19 → SimState.halfClocks p k sim = .ok m → (m.node n).state = (m.node n).pullUp) →
      (sim'.node n).state = true ∧ (sim'.node n).pullUp = true ∧ (sim'.node n).pullDown = false) ∧
  (∀ (s : State) (rest : List HostCmd),
    (s.host = .simInit :: rest →
      (s.sim.phase ≠ .fresh → step s = .refused .simInitOutsideContract) ∧
      (s.sim.phase = .fresh → ∀ sim', s.sim.init s.params = .ok sim' →
        step s = .next ((s.setHost rest).setSim { sim' with phase := .booted }))) ∧
    (s.host = .simRunStartProgram :: rest →
      (s.sim.phase ≠ .booted → step s = .refused .simStartBeforeInit) ∧
      (s.sim.phase = .booted → ∀ sim', s.sim.runStartProgram s.params = .ok sim' →
        step s = .next ((s.setHost rest).setSim sim') ∧ sim'.phase = .booted))) ∧
  ∀ (s t : State) (c : HostCmd) (rest : List HostCmd), s.host = c :: rest → step s = .next t →
    ((∃ net, c = .simSetup net) → t.sim.phase = .fresh ∧ Undriven t.sim) ∧
    ((∀ net, c ≠ .simSetup net) → c ≠ .simInit →
      (s.sim.phase ≠ .fresh → t.sim.phase = s.sim.phase) ∧
      (s.sim.phase = .fresh →
        ((∃ m, t.sim = { s.sim with mem := m }) ∨ t.sim.phase = .stepped) ∧
        (Undriven s.sim → c.movesSim = true → t.sim.phase = .stepped)))

/-! ### The bus as a parameter -/

/-- R6, R60, R61, R65, R67: `BUS` is an argument of both engines. On any environment a `Clock()` of SEQ makes exactly one
request, a read or a write, and a half-clock of SIM at most one; what the request is depends on the engine alone, and what
the engine does then on nothing of the environment but the byte it answers and whether it fails. On the reference bus of
R61 they are the `clock` and `halfClock` that `step` runs. -/
def Obligations.AnyBus : Prop :=
  (∀ (mode : DecimalMode) (st : SeqState), QueueShape st.q →
    ∃ req k, req ≠ .idle ∧ ∀ (σ : Type) (bus : Bus σ) (env : σ),
      clockOn bus mode { env := env, engine := st } = bus.serve env req k) ∧
  (∀ (p : Params) (sim : SimState), ∃ (before : Except Fault BusRequest) (k : Byte → Except Fault SimState),
    ∀ (σ : Type) (bus : Bus σ) (env : σ),
      halfClockOn bus p { env := env, engine := sim } =
        (match before with
          | .ok req => bus.serve env req k
          | .error f => .error f)) ∧
  ∀ (p : Params) (st : SeqState) (sim : SimState),
    clockOn (referenceBus p) p.decimalMode { env := st.mem, engine := st } =
      (st.clock p).map (fun st' => { env := st'.mem, engine := { st' with mem := st.mem } }) ∧
    halfClockOn (referenceBus p) p { env := sim.mem, engine := sim } =
      (sim.halfClock p).map (fun sim' => { env := sim'.mem, engine := { sim' with mem := sim.mem } })
end

