-- ==== Sys2Proof/Laws/Bits.lean ====
section
/-! SUPPORT. Laws of the byte and address helpers and of the status byte. -/

namespace Sys2Proof.Machine

theorem hiByte_toNat (v : Addr) : (hiByte v).toNat = v.toNat / 256 := by
  simp only [hiByte, BitVec.extractLsb'_toNat, Nat.shiftRight_eq_div_pow]
  omega

theorem loByte_toNat (v : Addr) : (loByte v).toNat = v.toNat % 256 := by
  simp only [loByte, BitVec.extractLsb'_toNat, Nat.shiftRight_eq_div_pow]
  omega

theorem cat_toNat (h l : Byte) : (cat h l).toNat = h.toNat * 256 + l.toNat := by
  have := l.isLt
  rw [cat, BitVec.toNat_append, Nat.shiftLeft_eq, Nat.mul_comm, ← Nat.two_pow_add_eq_or_of_lt l.isLt]

@[simp] theorem hiByte_cat (h l : Byte) : hiByte (cat h l) = h := by
  have := l.isLt
  apply BitVec.eq_of_toNat_eq
  rw [hiByte_toNat, cat_toNat]
  omega

@[simp] theorem loByte_cat (h l : Byte) : loByte (cat h l) = l := by
  have := l.isLt
  apply BitVec.eq_of_toNat_eq
  rw [loByte_toNat, cat_toNat]
  omega

@[simp] theorem cat_hiByte_loByte (v : Addr) : cat (hiByte v) (loByte v) = v := by
  apply BitVec.eq_of_toNat_eq
  rw [cat_toNat, hiByte_toNat, loByte_toNat]
  omega

theorem cat_inj {h l h' l' : Byte} : cat h l = cat h' l' ↔ h = h' ∧ l = l' := by
  constructor
  · intro e
    exact ⟨by simpa using congrArg hiByte e, by simpa using congrArg loByte e⟩
  · rintro ⟨rfl, rfl⟩; rfl

theorem byte_sub_two (x : Byte) : x - 1 - 1 = x - 2 := by rw [BitVec.sub_sub]; rfl
theorem byte_sub_three (x : Byte) : x - 1 - 1 - 1 = x - 3 := by rw [byte_sub_two, BitVec.sub_sub]; rfl
theorem byte_add_two (x : Byte) : x + 1 + 1 = x + 2 := by rw [BitVec.add_assoc]; rfl
theorem byte_add_three (x : Byte) : x + 1 + 1 + 1 = x + 3 := by rw [byte_add_two, BitVec.add_assoc]; rfl

/-- The high digit's weight (R261, R262). -/
theorem high_nibble (a : Byte) : (a &&& 0xF0).toNat = 16 * (a.toNat / 16) := by revert a; decide

/-- Sign extension by the sign bit (R8, R308). -/
theorem sext16_eq (d : Byte) : sext16 d = if d.getLsbD 7 then 0xFF00 + d.setWidth 16 else d.setWidth 16 := by
  revert d; decide

/-- The stack occupies `0x0100` to `0x01FF` (R64). -/
theorem stackAddr_toNat (a : Byte) : (stackAddr a).toNat = 256 + a.toNat := by
  rw [stackAddr, cat_toNat]; simp [stackPage]

theorem stackAddr_inj {a b : Byte} : stackAddr a = stackAddr b ↔ a = b := by
  rw [stackAddr, stackAddr, cat_inj]; simp

/-- The eight flags are independent bits: a write of one is seen in it and in no other (R32). -/
theorem getFlag_setFlag (p : Byte) (f g : Flag) (b : Bool) :
    getFlag (setFlag p f b) g = if g = f then b else getFlag p g := by
  simp only [getFlag, setFlag, Flag.mask]
  cases b <;> cases f <;> cases g <;> simp [Flag.pos]

@[simp] theorem getFlag_setFlag_same (p : Byte) (f : Flag) (b : Bool) : getFlag (setFlag p f b) f = b := by
  simp [getFlag_setFlag]

/-- `setNZ` writes `N` and `Z` and nothing else (R32). -/
theorem getFlag_setNZ (p v : Byte) (g : Flag) :
    getFlag (setNZ p v) g = match g with
      | .n => v.msb
      | .z => v == 0
      | .c => getFlag p .c
      | .i => getFlag p .i
      | .d => getFlag p .d
      | .b => getFlag p .b
      | .u => getFlag p .u
      | .v => getFlag p .v := by
  cases g <;> simp [setNZ, getFlag_setFlag]

/-- Two status bytes with the same eight flags are equal. -/
theorem status_ext {p p' : Byte} (h : ∀ f, getFlag p f = getFlag p' f) : p = p' := by
  ext i hi
  have : i = 0 ∨ i = 1 ∨ i = 2 ∨ i = 3 ∨ i = 4 ∨ i = 5 ∨ i = 6 ∨ i = 7 := by omega
  rcases this with rfl | rfl | rfl | rfl | rfl | rfl | rfl | rfl
  · exact h .c
  · exact h .z
  · exact h .i
  · exact h .d
  · exact h .b
  · exact h .u
  · exact h .v
  · exact h .n

/-- No flag but `B` and `U` touches bits 4 and 5 (R33). -/
theorem setFlag_bits45 (p : Byte) (f : Flag) (b : Bool) (hb : f ≠ .b) (hu : f ≠ .u) :
    setFlag p f b &&& 0x30#8 = p &&& 0x30#8 := by
  apply status_ext
  intro g
  have h := getFlag_setFlag p f g b
  simp only [getFlag, BitVec.getLsbD_and] at h ⊢
  rw [h]
  cases f <;> first | contradiction | (cases g <;> simp [Flag.pos])

@[simp] theorem setNZ_bits45 (p v : Byte) : setNZ p v &&& 0x30#8 = p &&& 0x30#8 := by
  simp [setNZ, setFlag_bits45]

@[simp] theorem pulledStatus_bits45 (p m : Byte) : pulledStatus p m &&& 0x30#8 = p &&& 0x30#8 := by
  unfold pulledStatus
  ext i hi
  simp only [BitVec.getElem_and, BitVec.getElem_or]
  have : i = 0 ∨ i = 1 ∨ i = 2 ∨ i = 3 ∨ i = 4 ∨ i = 5 ∨ i = 6 ∨ i = 7 := by omega
  rcases this with rfl | rfl | rfl | rfl | rfl | rfl | rfl | rfl <;> simp

/-- A pulled status byte gives every flag but `B` and `U`, which keep their value (R33). -/
theorem getFlag_pulledStatus (p m : Byte) (f : Flag) :
    getFlag (pulledStatus p m) f = if f = .b ∨ f = .u then getFlag p f else getFlag m f := by
  unfold pulledStatus getFlag
  cases f <;> simp [Flag.pos]

theorem addBinary_bits45 (p a m : Byte) (c : Bool) : (addBinary p a m c).p &&& 0x30#8 = p &&& 0x30#8 := by
  simp [addBinary, setFlag_bits45]

theorem addDecimal_bits45 (p a m : Byte) (c : Bool) : (addDecimal p a m c).p &&& 0x30#8 = p &&& 0x30#8 := by
  simp [addDecimal, setFlag_bits45]

theorem subDecimal_bits45 (p a m : Byte) (c : Bool) : (subDecimal p a m c).p &&& 0x30#8 = p &&& 0x30#8 := by
  simp [subDecimal, setFlag_bits45]

@[simp] theorem adcOut_bits45 (mode : DecimalMode) (p a m : Byte) :
    (adcOut mode p a m).p &&& 0x30#8 = p &&& 0x30#8 := by
  unfold adcOut; split
  · exact addDecimal_bits45 ..
  · exact addBinary_bits45 ..

@[simp] theorem sbcOut_bits45 (mode : DecimalMode) (p a m : Byte) :
    (sbcOut mode p a m).p &&& 0x30#8 = p &&& 0x30#8 := by
  unfold sbcOut; split
  · exact subDecimal_bits45 ..
  · exact addBinary_bits45 ..

@[simp] theorem compareP_bits45 (p r m : Byte) : compareP p r m &&& 0x30#8 = p &&& 0x30#8 := by
  simp [compareP, setFlag_bits45]

@[simp] theorem bitTest_bits45 (p a m : Byte) : bitTest p a m &&& 0x30#8 = p &&& 0x30#8 := by
  simp [bitTest, setFlag_bits45]

end Sys2Proof.Machine
end

