-- ==== Sys2Proof/Laws/Memory.lean ====
section
/-! SUPPORT. Laws of the backing store: read after write, and the canonical form. -/

namespace Sys2Proof.Machine

@[simp] theorem Memory.read_nil (k : Nat) : Memory.read [] k = Memory.unlisted := rfl

theorem Memory.read_cons (c : Host.Cell) (m : Memory) (k : Nat) :
    Memory.read (c :: m) k = if c.1 = k then c.2 else Memory.read m k := rfl

theorem Memory.read_filter (m : Memory) (k j : Nat) :
    Memory.read (m.filter (fun c => c.1 != k)) j = if j = k then Memory.unlisted else Memory.read m j := by
  induction m with
  | nil => simp
  | cons c m ih =>
    simp only [List.filter_cons, Memory.read_cons]
    by_cases h : c.1 = k
    · by_cases hj : j = k
      · simp_all
      · have : ¬ c.1 = j := by omega
        simp_all
    · by_cases hj : c.1 = j
      · have : ¬ j = k := by omega
        simp_all [Memory.read_cons]
      · simp_all [Memory.read_cons]

theorem Memory.read_insert (m : Memory) (k : Nat) (v : Byte) (j : Nat) :
    Memory.read (Memory.insert m k v) j = if j = k then v else Memory.read m j := by
  induction m with
  | nil => simp only [Memory.insert, Memory.read_cons, eq_comm]
  | cons c m ih =>
    simp only [Memory.insert]
    split
    · simp only [Memory.read_cons, eq_comm]
    · split
      · rename_i h1 h2
        simp only [Memory.read_cons, h2, eq_comm (a := j)]
        by_cases hj : k = j <;> simp [hj]
      · rename_i h1 h2
        simp only [Memory.read_cons, ih]
        by_cases hj : c.1 = j
        · have : ¬ j = k := by omega
          simp [hj, this]
        · simp [hj]

/-- A write is seen at its address and nowhere else, whatever the list holds (R61). -/
theorem Memory.read_write (m : Memory) (k : Nat) (v : Byte) (j : Nat) :
    Memory.read (m.write k v) j = if j = k then v else Memory.read m j := by
  unfold Memory.write
  split
  · rename_i h
    rw [Memory.read_filter, h]
  · exact Memory.read_insert m k v j

theorem Memory.rising_iff (m : Memory) : Memory.rising m = true ↔ m.Pairwise (fun c d => c.1 < d.1) := by
  induction m with
  | nil => simp [Memory.rising]
  | cons c m ih =>
    cases m with
    | nil => simp [Memory.rising]
    | cons d m =>
      simp only [Memory.rising, Bool.and_eq_true, decide_eq_true_eq, ih, List.pairwise_cons]
      constructor
      · rintro ⟨h, h1, h2⟩
        refine ⟨?_, h1, h2⟩
        intro e he
        rcases List.mem_cons.mp he with rfl | he
        · exact h
        · exact lt_trans h (h1 e he)
      · rintro ⟨h, h1, h2⟩
        exact ⟨h d (by simp), h1, h2⟩

theorem Memory.mem_insert {m : Memory} {k : Nat} {v : Byte} {c : Host.Cell}
    (h : c ∈ Memory.insert m k v) : c = (k, v) ∨ c ∈ m := by
  induction m with
  | nil => simpa [Memory.insert] using h
  | cons d m ih =>
    simp only [Memory.insert] at h
    split at h
    · simpa using h
    · split at h
      · rcases List.mem_cons.mp h with h | h
        · exact .inl h
        · exact .inr (List.mem_cons_of_mem _ h)
      · rcases List.mem_cons.mp h with h | h
        · exact .inr (by simp [h])
        · rcases ih h with h | h
          · exact .inl h
          · exact .inr (List.mem_cons_of_mem _ h)

theorem Memory.rising_insert {m : Memory} (k : Nat) (v : Byte) (h : Memory.rising m = true) :
    Memory.rising (Memory.insert m k v) = true := by
  rw [Memory.rising_iff] at h ⊢
  induction m with
  | nil => simp [Memory.insert]
  | cons d m ih =>
    have hp := List.pairwise_cons.mp h
    simp only [Memory.insert]
    split
    · rename_i hk
      refine List.pairwise_cons.mpr ⟨?_, h⟩
      intro c hc
      rcases List.mem_cons.mp hc with rfl | hc
      · exact hk
      · exact lt_trans hk (hp.1 c hc)
    · split
      · rename_i h1 h2
        exact List.pairwise_cons.mpr ⟨fun c hc => by simpa [← h2] using hp.1 c hc, hp.2⟩
      · rename_i h1 h2
        refine List.pairwise_cons.mpr ⟨?_, ih hp.2⟩
        intro c hc
        rcases Memory.mem_insert hc with rfl | hc
        · show d.1 < k
          omega
        · exact hp.1 c hc

/-- Every write keeps the canonical form. -/
theorem Memory.wf_write {m : Memory} (k : Nat) (v : Byte) (hk : k < 65536) (h : Memory.wf m = true) :
    Memory.wf (m.write k v) = true := by
  simp only [Memory.wf, Bool.and_eq_true, List.all_eq_true, bne_iff_ne, decide_eq_true_eq] at h ⊢
  obtain ⟨⟨hr, hu⟩, hb⟩ := h
  unfold Memory.write
  split
  · refine ⟨⟨?_, fun c hc => hu c (List.mem_of_mem_filter hc)⟩, fun c hc => hb c (List.mem_of_mem_filter hc)⟩
    rw [Memory.rising_iff] at hr ⊢
    exact hr.filter _
  · rename_i hv
    refine ⟨⟨Memory.rising_insert k v hr, ?_⟩, ?_⟩
    · intro c hc
      rcases Memory.mem_insert hc with rfl | hc
      · exact hv
      · exact hu c hc
    · intro c hc
      rcases Memory.mem_insert hc with rfl | hc
      · exact hk
      · exact hb c hc

theorem Memory.wf_write_addr {m : Memory} (a : Addr) (v : Byte) (h : Memory.wf m = true) :
    Memory.wf (m.write a.toNat v) = true := Memory.wf_write _ v a.isLt h

theorem Memory.read_eq_unlisted_of_lt {m : Memory} {k : Nat} (h : ∀ c ∈ m, k < c.1) :
    Memory.read m k = Memory.unlisted := by
  induction m with
  | nil => rfl
  | cons c m ih =>
    have h1 := h c (by simp)
    rw [Memory.read_cons, if_neg (by omega)]
    exact ih fun d hd => h d (by simp [hd])

/-- Equal contents in canonical form are equal data. -/
theorem Memory.wf_ext {m m' : Memory} (h : Memory.wf m = true) (h' : Memory.wf m' = true)
    (hr : ∀ k, Memory.read m k = Memory.read m' k) : m = m' := by
  simp only [Memory.wf, Bool.and_eq_true, List.all_eq_true, bne_iff_ne, decide_eq_true_eq,
    Memory.rising_iff] at h h'
  obtain ⟨⟨hs, hu⟩, -⟩ := h
  obtain ⟨⟨hs', hu'⟩, -⟩ := h'
  induction m generalizing m' with
  | nil =>
    cases m' with
    | nil => rfl
    | cons c m' =>
      have := hr c.1
      simp [Memory.read_cons] at this
      exact absurd this.symm (hu' c (by simp))
  | cons c m ih =>
    cases m' with
    | nil =>
      have := hr c.1
      simp [Memory.read_cons] at this
      exact absurd this (hu c (by simp))
    | cons d m' =>
      have p := List.pairwise_cons.mp hs
      have p' := List.pairwise_cons.mp hs'
      have key : c.1 = d.1 := by
        rcases lt_trichotomy c.1 d.1 with hlt | heq | hgt
        · have h1 := hr c.1
          rw [Memory.read_cons, if_pos rfl,
            Memory.read_eq_unlisted_of_lt (m := d :: m')
              (by intro e he; rcases List.mem_cons.mp he with rfl | he
                  · exact hlt
                  · exact lt_trans hlt (p'.1 e he))] at h1
          exact absurd h1 (hu c (by simp))
        · exact heq
        · have h1 := hr d.1
          rw [Memory.read_cons (c := d), if_pos rfl,
            Memory.read_eq_unlisted_of_lt (m := c :: m)
              (by intro e he; rcases List.mem_cons.mp he with rfl | he
                  · exact hgt
                  · exact lt_trans hgt (p.1 e he))] at h1
          exact absurd h1.symm (hu' d (by simp))
      have val : c.2 = d.2 := by
        have h1 := hr c.1
        simpa [Memory.read_cons, key] using h1
      have tail : m = m' := by
        refine ih (m' := m') ?_ p.2 (fun e he => hu e (by simp [he])) p'.2 (fun e he => hu' e (by simp [he]))
        intro k
        by_cases hk : c.1 = k
        · rw [Memory.read_eq_unlisted_of_lt (m := m) (by intro e he; have := p.1 e he; omega),
            Memory.read_eq_unlisted_of_lt (m := m') (by intro e he; have := p'.1 e he; omega)]
        · have h1 := hr k
          rw [Memory.read_cons, Memory.read_cons, if_neg hk, if_neg (by omega)] at h1
          exact h1
      rw [tail]
      congr 1
      exact Prod.ext key val

end Sys2Proof.Machine
end

