-- ==== Sys2Proof/Laws/State.lean ====
section
/-! SUPPORT. One lemma per field per named update of the state, each true by rfl. -/

namespace Sys2Proof.Machine

@[simp] theorem State.setSeq_seq (s : State) (q : SeqState) : (s.setSeq q).seq = q := rfl
@[simp] theorem State.setSeq_sim (s : State) (q : SeqState) : (s.setSeq q).sim = s.sim := rfl
@[simp] theorem State.setSeq_params (s : State) (q : SeqState) : (s.setSeq q).params = s.params := rfl
@[simp] theorem State.setSeq_host (s : State) (q : SeqState) : (s.setSeq q).host = s.host := rfl

@[simp] theorem State.setSim_seq (s : State) (m : SimState) : (s.setSim m).seq = s.seq := rfl
@[simp] theorem State.setSim_sim (s : State) (m : SimState) : (s.setSim m).sim = m := rfl
@[simp] theorem State.setSim_params (s : State) (m : SimState) : (s.setSim m).params = s.params := rfl
@[simp] theorem State.setSim_host (s : State) (m : SimState) : (s.setSim m).host = s.host := rfl

@[simp] theorem State.setHost_seq (s : State) (h : List HostCmd) : (s.setHost h).seq = s.seq := rfl
@[simp] theorem State.setHost_sim (s : State) (h : List HostCmd) : (s.setHost h).sim = s.sim := rfl
@[simp] theorem State.setHost_params (s : State) (h : List HostCmd) : (s.setHost h).params = s.params := rfl
@[simp] theorem State.setHost_host (s : State) (h : List HostCmd) : (s.setHost h).host = h := rfl

@[simp] theorem SeqState.setA_a (st : SeqState) (v : Byte) : (st.setA v).a = v := rfl
@[simp] theorem SeqState.setA_x (st : SeqState) (v : Byte) : (st.setA v).x = st.x := rfl
@[simp] theorem SeqState.setA_y (st : SeqState) (v : Byte) : (st.setA v).y = st.y := rfl
@[simp] theorem SeqState.setA_s (st : SeqState) (v : Byte) : (st.setA v).s = st.s := rfl
@[simp] theorem SeqState.setA_p (st : SeqState) (v : Byte) : (st.setA v).p = st.p := rfl
@[simp] theorem SeqState.setA_pc (st : SeqState) (v : Byte) : (st.setA v).pc = st.pc := rfl
@[simp] theorem SeqState.setA_adl (st : SeqState) (v : Byte) : (st.setA v).adl = st.adl := rfl
@[simp] theorem SeqState.setA_adh (st : SeqState) (v : Byte) : (st.setA v).adh = st.adh := rfl
@[simp] theorem SeqState.setA_eal (st : SeqState) (v : Byte) : (st.setA v).eal = st.eal := rfl
@[simp] theorem SeqState.setA_eah (st : SeqState) (v : Byte) : (st.setA v).eah = st.eah := rfl
@[simp] theorem SeqState.setA_dl (st : SeqState) (v : Byte) : (st.setA v).dl = st.dl := rfl
@[simp] theorem SeqState.setA_q (st : SeqState) (v : Byte) : (st.setA v).q = st.q := rfl
@[simp] theorem SeqState.setA_irqLine (st : SeqState) (v : Byte) : (st.setA v).irqLine = st.irqLine := rfl
@[simp] theorem SeqState.setA_nmiLine (st : SeqState) (v : Byte) : (st.setA v).nmiLine = st.nmiLine := rfl
@[simp] theorem SeqState.setA_nmiPrev (st : SeqState) (v : Byte) : (st.setA v).nmiPrev = st.nmiPrev := rfl
@[simp] theorem SeqState.setA_nmiPending (st : SeqState) (v : Byte) : (st.setA v).nmiPending = st.nmiPending := rfl
@[simp] theorem SeqState.setA_mem (st : SeqState) (v : Byte) : (st.setA v).mem = st.mem := rfl
@[simp] theorem SeqState.setA_freeCount (st : SeqState) (v : Byte) : (st.setA v).freeCount = st.freeCount := rfl

@[simp] theorem SeqState.setX_a (st : SeqState) (v : Byte) : (st.setX v).a = st.a := rfl
@[simp] theorem SeqState.setX_x (st : SeqState) (v : Byte) : (st.setX v).x = v := rfl
@[simp] theorem SeqState.setX_y (st : SeqState) (v : Byte) : (st.setX v).y = st.y := rfl
@[simp] theorem SeqState.setX_s (st : SeqState) (v : Byte) : (st.setX v).s = st.s := rfl
@[simp] theorem SeqState.setX_p (st : SeqState) (v : Byte) : (st.setX v).p = st.p := rfl
@[simp] theorem SeqState.setX_pc (st : SeqState) (v : Byte) : (st.setX v).pc = st.pc := rfl
@[simp] theorem SeqState.setX_adl (st : SeqState) (v : Byte) : (st.setX v).adl = st.adl := rfl
@[simp] theorem SeqState.setX_adh (st : SeqState) (v : Byte) : (st.setX v).adh = st.adh := rfl
@[simp] theorem SeqState.setX_eal (st : SeqState) (v : Byte) : (st.setX v).eal = st.eal := rfl
@[simp] theorem SeqState.setX_eah (st : SeqState) (v : Byte) : (st.setX v).eah = st.eah := rfl
@[simp] theorem SeqState.setX_dl (st : SeqState) (v : Byte) : (st.setX v).dl = st.dl := rfl
@[simp] theorem SeqState.setX_q (st : SeqState) (v : Byte) : (st.setX v).q = st.q := rfl
@[simp] theorem SeqState.setX_irqLine (st : SeqState) (v : Byte) : (st.setX v).irqLine = st.irqLine := rfl
@[simp] theorem SeqState.setX_nmiLine (st : SeqState) (v : Byte) : (st.setX v).nmiLine = st.nmiLine := rfl
@[simp] theorem SeqState.setX_nmiPrev (st : SeqState) (v : Byte) : (st.setX v).nmiPrev = st.nmiPrev := rfl
@[simp] theorem SeqState.setX_nmiPending (st : SeqState) (v : Byte) : (st.setX v).nmiPending = st.nmiPending := rfl
@[simp] theorem SeqState.setX_mem (st : SeqState) (v : Byte) : (st.setX v).mem = st.mem := rfl
@[simp] theorem SeqState.setX_freeCount (st : SeqState) (v : Byte) : (st.setX v).freeCount = st.freeCount := rfl

@[simp] theorem SeqState.setY_a (st : SeqState) (v : Byte) : (st.setY v).a = st.a := rfl
@[simp] theorem SeqState.setY_x (st : SeqState) (v : Byte) : (st.setY v).x = st.x := rfl
@[simp] theorem SeqState.setY_y (st : SeqState) (v : Byte) : (st.setY v).y = v := rfl
@[simp] theorem SeqState.setY_s (st : SeqState) (v : Byte) : (st.setY v).s = st.s := rfl
@[simp] theorem SeqState.setY_p (st : SeqState) (v : Byte) : (st.setY v).p = st.p := rfl
@[simp] theorem SeqState.setY_pc (st : SeqState) (v : Byte) : (st.setY v).pc = st.pc := rfl
@[simp] theorem SeqState.setY_adl (st : SeqState) (v : Byte) : (st.setY v).adl = st.adl := rfl
@[simp] theorem SeqState.setY_adh (st : SeqState) (v : Byte) : (st.setY v).adh = st.adh := rfl
@[simp] theorem SeqState.setY_eal (st : SeqState) (v : Byte) : (st.setY v).eal = st.eal := rfl
@[simp] theorem SeqState.setY_eah (st : SeqState) (v : Byte) : (st.setY v).eah = st.eah := rfl
@[simp] theorem SeqState.setY_dl (st : SeqState) (v : Byte) : (st.setY v).dl = st.dl := rfl
@[simp] theorem SeqState.setY_q (st : SeqState) (v : Byte) : (st.setY v).q = st.q := rfl
@[simp] theorem SeqState.setY_irqLine (st : SeqState) (v : Byte) : (st.setY v).irqLine = st.irqLine := rfl
@[simp] theorem SeqState.setY_nmiLine (st : SeqState) (v : Byte) : (st.setY v).nmiLine = st.nmiLine := rfl
@[simp] theorem SeqState.setY_nmiPrev (st : SeqState) (v : Byte) : (st.setY v).nmiPrev = st.nmiPrev := rfl
@[simp] theorem SeqState.setY_nmiPending (st : SeqState) (v : Byte) : (st.setY v).nmiPending = st.nmiPending := rfl
@[simp] theorem SeqState.setY_mem (st : SeqState) (v : Byte) : (st.setY v).mem = st.mem := rfl
@[simp] theorem SeqState.setY_freeCount (st : SeqState) (v : Byte) : (st.setY v).freeCount = st.freeCount := rfl

@[simp] theorem SeqState.setS_a (st : SeqState) (v : Byte) : (st.setS v).a = st.a := rfl
@[simp] theorem SeqState.setS_x (st : SeqState) (v : Byte) : (st.setS v).x = st.x := rfl
@[simp] theorem SeqState.setS_y (st : SeqState) (v : Byte) : (st.setS v).y = st.y := rfl
@[simp] theorem SeqState.setS_s (st : SeqState) (v : Byte) : (st.setS v).s = v := rfl
@[simp] theorem SeqState.setS_p (st : SeqState) (v : Byte) : (st.setS v).p = st.p := rfl
@[simp] theorem SeqState.setS_pc (st : SeqState) (v : Byte) : (st.setS v).pc = st.pc := rfl
@[simp] theorem SeqState.setS_adl (st : SeqState) (v : Byte) : (st.setS v).adl = st.adl := rfl
@[simp] theorem SeqState.setS_adh (st : SeqState) (v : Byte) : (st.setS v).adh = st.adh := rfl
@[simp] theorem SeqState.setS_eal (st : SeqState) (v : Byte) : (st.setS v).eal = st.eal := rfl
@[simp] theorem SeqState.setS_eah (st : SeqState) (v : Byte) : (st.setS v).eah = st.eah := rfl
@[simp] theorem SeqState.setS_dl (st : SeqState) (v : Byte) : (st.setS v).dl = st.dl := rfl
@[simp] theorem SeqState.setS_q (st : SeqState) (v : Byte) : (st.setS v).q = st.q := rfl
@[simp] theorem SeqState.setS_irqLine (st : SeqState) (v : Byte) : (st.setS v).irqLine = st.irqLine := rfl
@[simp] theorem SeqState.setS_nmiLine (st : SeqState) (v : Byte) : (st.setS v).nmiLine = st.nmiLine := rfl
@[simp] theorem SeqState.setS_nmiPrev (st : SeqState) (v : Byte) : (st.setS v).nmiPrev = st.nmiPrev := rfl
@[simp] theorem SeqState.setS_nmiPending (st : SeqState) (v : Byte) : (st.setS v).nmiPending = st.nmiPending := rfl
@[simp] theorem SeqState.setS_mem (st : SeqState) (v : Byte) : (st.setS v).mem = st.mem := rfl
@[simp] theorem SeqState.setS_freeCount (st : SeqState) (v : Byte) : (st.setS v).freeCount = st.freeCount := rfl

@[simp] theorem SeqState.setP_a (st : SeqState) (v : Byte) : (st.setP v).a = st.a := rfl
@[simp] theorem SeqState.setP_x (st : SeqState) (v : Byte) : (st.setP v).x = st.x := rfl
@[simp] theorem SeqState.setP_y (st : SeqState) (v : Byte) : (st.setP v).y = st.y := rfl
@[simp] theorem SeqState.setP_s (st : SeqState) (v : Byte) : (st.setP v).s = st.s := rfl
@[simp] theorem SeqState.setP_p (st : SeqState) (v : Byte) : (st.setP v).p = v := rfl
@[simp] theorem SeqState.setP_pc (st : SeqState) (v : Byte) : (st.setP v).pc = st.pc := rfl
@[simp] theorem SeqState.setP_adl (st : SeqState) (v : Byte) : (st.setP v).adl = st.adl := rfl
@[simp] theorem SeqState.setP_adh (st : SeqState) (v : Byte) : (st.setP v).adh = st.adh := rfl
@[simp] theorem SeqState.setP_eal (st : SeqState) (v : Byte) : (st.setP v).eal = st.eal := rfl
@[simp] theorem SeqState.setP_eah (st : SeqState) (v : Byte) : (st.setP v).eah = st.eah := rfl
@[simp] theorem SeqState.setP_dl (st : SeqState) (v : Byte) : (st.setP v).dl = st.dl := rfl
@[simp] theorem SeqState.setP_q (st : SeqState) (v : Byte) : (st.setP v).q = st.q := rfl
@[simp] theorem SeqState.setP_irqLine (st : SeqState) (v : Byte) : (st.setP v).irqLine = st.irqLine := rfl
@[simp] theorem SeqState.setP_nmiLine (st : SeqState) (v : Byte) : (st.setP v).nmiLine = st.nmiLine := rfl
@[simp] theorem SeqState.setP_nmiPrev (st : SeqState) (v : Byte) : (st.setP v).nmiPrev = st.nmiPrev := rfl
@[simp] theorem SeqState.setP_nmiPending (st : SeqState) (v : Byte) : (st.setP v).nmiPending = st.nmiPending := rfl
@[simp] theorem SeqState.setP_mem (st : SeqState) (v : Byte) : (st.setP v).mem = st.mem := rfl
@[simp] theorem SeqState.setP_freeCount (st : SeqState) (v : Byte) : (st.setP v).freeCount = st.freeCount := rfl

@[simp] theorem SeqState.setFlag_a (st : SeqState) (f : Flag) (b : Bool) : (st.setFlag f b).a = st.a := rfl
@[simp] theorem SeqState.setFlag_x (st : SeqState) (f : Flag) (b : Bool) : (st.setFlag f b).x = st.x := rfl
@[simp] theorem SeqState.setFlag_y (st : SeqState) (f : Flag) (b : Bool) : (st.setFlag f b).y = st.y := rfl
@[simp] theorem SeqState.setFlag_s (st : SeqState) (f : Flag) (b : Bool) : (st.setFlag f b).s = st.s := rfl
@[simp] theorem SeqState.setFlag_p (st : SeqState) (f : Flag) (b : Bool) : (st.setFlag f b).p = Machine.setFlag st.p f b := rfl
@[simp] theorem SeqState.setFlag_pc (st : SeqState) (f : Flag) (b : Bool) : (st.setFlag f b).pc = st.pc := rfl
@[simp] theorem SeqState.setFlag_adl (st : SeqState) (f : Flag) (b : Bool) : (st.setFlag f b).adl = st.adl := rfl
@[simp] theorem SeqState.setFlag_adh (st : SeqState) (f : Flag) (b : Bool) : (st.setFlag f b).adh = st.adh := rfl
@[simp] theorem SeqState.setFlag_eal (st : SeqState) (f : Flag) (b : Bool) : (st.setFlag f b).eal = st.eal := rfl
@[simp] theorem SeqState.setFlag_eah (st : SeqState) (f : Flag) (b : Bool) : (st.setFlag f b).eah = st.eah := rfl
@[simp] theorem SeqState.setFlag_dl (st : SeqState) (f : Flag) (b : Bool) : (st.setFlag f b).dl = st.dl := rfl
@[simp] theorem SeqState.setFlag_q (st : SeqState) (f : Flag) (b : Bool) : (st.setFlag f b).q = st.q := rfl
@[simp] theorem SeqState.setFlag_irqLine (st : SeqState) (f : Flag) (b : Bool) : (st.setFlag f b).irqLine = st.irqLine := rfl
@[simp] theorem SeqState.setFlag_nmiLine (st : SeqState) (f : Flag) (b : Bool) : (st.setFlag f b).nmiLine = st.nmiLine := rfl
@[simp] theorem SeqState.setFlag_nmiPrev (st : SeqState) (f : Flag) (b : Bool) : (st.setFlag f b).nmiPrev = st.nmiPrev := rfl
@[simp] theorem SeqState.setFlag_nmiPending (st : SeqState) (f : Flag) (b : Bool) : (st.setFlag f b).nmiPending = st.nmiPending := rfl
@[simp] theorem SeqState.setFlag_mem (st : SeqState) (f : Flag) (b : Bool) : (st.setFlag f b).mem = st.mem := rfl
@[simp] theorem SeqState.setFlag_freeCount (st : SeqState) (f : Flag) (b : Bool) : (st.setFlag f b).freeCount = st.freeCount := rfl

@[simp] theorem SeqState.setNZ_a (st : SeqState) (v : Byte) : (st.setNZ v).a = st.a := rfl
@[simp] theorem SeqState.setNZ_x (st : SeqState) (v : Byte) : (st.setNZ v).x = st.x := rfl
@[simp] theorem SeqState.setNZ_y (st : SeqState) (v : Byte) : (st.setNZ v).y = st.y := rfl
@[simp] theorem SeqState.setNZ_s (st : SeqState) (v : Byte) : (st.setNZ v).s = st.s := rfl
@[simp] theorem SeqState.setNZ_p (st : SeqState) (v : Byte) : (st.setNZ v).p = Machine.setNZ st.p v := rfl
@[simp] theorem SeqState.setNZ_pc (st : SeqState) (v : Byte) : (st.setNZ v).pc = st.pc := rfl
@[simp] theorem SeqState.setNZ_adl (st : SeqState) (v : Byte) : (st.setNZ v).adl = st.adl := rfl
@[simp] theorem SeqState.setNZ_adh (st : SeqState) (v : Byte) : (st.setNZ v).adh = st.adh := rfl
@[simp] theorem SeqState.setNZ_eal (st : SeqState) (v : Byte) : (st.setNZ v).eal = st.eal := rfl
@[simp] theorem SeqState.setNZ_eah (st : SeqState) (v : Byte) : (st.setNZ v).eah = st.eah := rfl
@[simp] theorem SeqState.setNZ_dl (st : SeqState) (v : Byte) : (st.setNZ v).dl = st.dl := rfl
@[simp] theorem SeqState.setNZ_q (st : SeqState) (v : Byte) : (st.setNZ v).q = st.q := rfl
@[simp] theorem SeqState.setNZ_irqLine (st : SeqState) (v : Byte) : (st.setNZ v).irqLine = st.irqLine := rfl
@[simp] theorem SeqState.setNZ_nmiLine (st : SeqState) (v : Byte) : (st.setNZ v).nmiLine = st.nmiLine := rfl
@[simp] theorem SeqState.setNZ_nmiPrev (st : SeqState) (v : Byte) : (st.setNZ v).nmiPrev = st.nmiPrev := rfl
@[simp] theorem SeqState.setNZ_nmiPending (st : SeqState) (v : Byte) : (st.setNZ v).nmiPending = st.nmiPending := rfl
@[simp] theorem SeqState.setNZ_mem (st : SeqState) (v : Byte) : (st.setNZ v).mem = st.mem := rfl
@[simp] theorem SeqState.setNZ_freeCount (st : SeqState) (v : Byte) : (st.setNZ v).freeCount = st.freeCount := rfl

@[simp] theorem SeqState.setAdd_a (st : SeqState) (o : AddOut) : (st.setAdd o).a = o.a := rfl
@[simp] theorem SeqState.setAdd_x (st : SeqState) (o : AddOut) : (st.setAdd o).x = st.x := rfl
@[simp] theorem SeqState.setAdd_y (st : SeqState) (o : AddOut) : (st.setAdd o).y = st.y := rfl
@[simp] theorem SeqState.setAdd_s (st : SeqState) (o : AddOut) : (st.setAdd o).s = st.s := rfl
@[simp] theorem SeqState.setAdd_p (st : SeqState) (o : AddOut) : (st.setAdd o).p = o.p := rfl
@[simp] theorem SeqState.setAdd_pc (st : SeqState) (o : AddOut) : (st.setAdd o).pc = st.pc := rfl
@[simp] theorem SeqState.setAdd_adl (st : SeqState) (o : AddOut) : (st.setAdd o).adl = st.adl := rfl
@[simp] theorem SeqState.setAdd_adh (st : SeqState) (o : AddOut) : (st.setAdd o).adh = st.adh := rfl
@[simp] theorem SeqState.setAdd_eal (st : SeqState) (o : AddOut) : (st.setAdd o).eal = st.eal := rfl
@[simp] theorem SeqState.setAdd_eah (st : SeqState) (o : AddOut) : (st.setAdd o).eah = st.eah := rfl
@[simp] theorem SeqState.setAdd_dl (st : SeqState) (o : AddOut) : (st.setAdd o).dl = st.dl := rfl
@[simp] theorem SeqState.setAdd_q (st : SeqState) (o : AddOut) : (st.setAdd o).q = st.q := rfl
@[simp] theorem SeqState.setAdd_irqLine (st : SeqState) (o : AddOut) : (st.setAdd o).irqLine = st.irqLine := rfl
@[simp] theorem SeqState.setAdd_nmiLine (st : SeqState) (o : AddOut) : (st.setAdd o).nmiLine = st.nmiLine := rfl
@[simp] theorem SeqState.setAdd_nmiPrev (st : SeqState) (o : AddOut) : (st.setAdd o).nmiPrev = st.nmiPrev := rfl
@[simp] theorem SeqState.setAdd_nmiPending (st : SeqState) (o : AddOut) : (st.setAdd o).nmiPending = st.nmiPending := rfl
@[simp] theorem SeqState.setAdd_mem (st : SeqState) (o : AddOut) : (st.setAdd o).mem = st.mem := rfl
@[simp] theorem SeqState.setAdd_freeCount (st : SeqState) (o : AddOut) : (st.setAdd o).freeCount = st.freeCount := rfl

@[simp] theorem SeqState.flag_setA (st : SeqState) (v : Byte) (f : Flag) : (st.setA v).flag f = st.flag f := rfl
@[simp] theorem SeqState.flag_setX (st : SeqState) (v : Byte) (f : Flag) : (st.setX v).flag f = st.flag f := rfl
@[simp] theorem SeqState.flag_setY (st : SeqState) (v : Byte) (f : Flag) : (st.setY v).flag f = st.flag f := rfl
@[simp] theorem SeqState.flag_setS (st : SeqState) (v : Byte) (f : Flag) : (st.setS v).flag f = st.flag f := rfl

end Sys2Proof.Machine
end

