-- ==== Sys2Proof/Laws/Ops.lean ====
section
/-! SUPPORT. What the shared operations of SEQ do: bus accesses on a full bus, and the frame of each effect function of
R174 ("a state transformer over SEQ's registers and flags only"). -/

namespace Sys2Proof.Machine

/-- On a bus of 65536 bytes every read succeeds (R62). -/
theorem SeqState.memRead_full {p : Params} (h : p.busSize = 65536) (st : SeqState) (a : Addr) :
    st.memRead p a = .ok (st.peek a) := by
  have := a.isLt
  unfold SeqState.memRead
  rw [if_pos (by omega)]

/-- On a bus of 65536 bytes every write succeeds (R62). -/
theorem SeqState.memWrite_full {p : Params} (h : p.busSize = 65536) (st : SeqState) (a : Addr) (v : Byte) :
    st.memWrite p a v = .ok (st.poke a v) := by
  have := a.isLt
  unfold SeqState.memWrite
  rw [if_pos (by omega)]

/-- A stored byte is read back at its address, and every other address reads as before (R61). -/
theorem SeqState.peek_poke (st : SeqState) (a b : Addr) (v : Byte) :
    (st.poke a v).peek b = if b = a then v else st.peek b := by
  unfold SeqState.peek SeqState.poke
  simp only [Memory.read_write, BitVec.toNat_inj]

/-- What is read depends on the memory image alone. -/
theorem SeqState.peek_congr {st st' : SeqState} (h : st.mem = st'.mem) (a : Addr) : st.peek a = st'.peek a := by
  unfold SeqState.peek; rw [h]

/-- One operation on a full bus: never a fault. -/
theorem runOp_full {p : Params} (h : p.busSize = 65536) (op : MicroOp) (st : SeqState) :
    runOp p op st = match op.request p.decimalMode st with
      | .idle => .ok (op.effect p.decimalMode 0 st)
      | .read a => .ok (op.effect p.decimalMode (st.peek a) st)
      | .write a v => .ok (op.effect p.decimalMode v (st.poke a v)) := by
  unfold runOp
  split <;> simp [SeqState.memRead_full h, SeqState.memWrite_full h, *]

@[simp] theorem SeqState.poke_a (st : SeqState) (a : Addr) (v : Byte) : (st.poke a v).a = st.a := rfl
@[simp] theorem SeqState.poke_x (st : SeqState) (a : Addr) (v : Byte) : (st.poke a v).x = st.x := rfl
@[simp] theorem SeqState.poke_y (st : SeqState) (a : Addr) (v : Byte) : (st.poke a v).y = st.y := rfl
@[simp] theorem SeqState.poke_s (st : SeqState) (a : Addr) (v : Byte) : (st.poke a v).s = st.s := rfl
@[simp] theorem SeqState.poke_p (st : SeqState) (a : Addr) (v : Byte) : (st.poke a v).p = st.p := rfl
@[simp] theorem SeqState.poke_pc (st : SeqState) (a : Addr) (v : Byte) : (st.poke a v).pc = st.pc := rfl
@[simp] theorem SeqState.poke_adl (st : SeqState) (a : Addr) (v : Byte) : (st.poke a v).adl = st.adl := rfl
@[simp] theorem SeqState.poke_adh (st : SeqState) (a : Addr) (v : Byte) : (st.poke a v).adh = st.adh := rfl
@[simp] theorem SeqState.poke_eal (st : SeqState) (a : Addr) (v : Byte) : (st.poke a v).eal = st.eal := rfl
@[simp] theorem SeqState.poke_eah (st : SeqState) (a : Addr) (v : Byte) : (st.poke a v).eah = st.eah := rfl
@[simp] theorem SeqState.poke_dl (st : SeqState) (a : Addr) (v : Byte) : (st.poke a v).dl = st.dl := rfl
@[simp] theorem SeqState.poke_q (st : SeqState) (a : Addr) (v : Byte) : (st.poke a v).q = st.q := rfl
@[simp] theorem SeqState.poke_irqLine (st : SeqState) (a : Addr) (v : Byte) : (st.poke a v).irqLine = st.irqLine := rfl
@[simp] theorem SeqState.poke_nmiLine (st : SeqState) (a : Addr) (v : Byte) : (st.poke a v).nmiLine = st.nmiLine := rfl
@[simp] theorem SeqState.poke_nmiPrev (st : SeqState) (a : Addr) (v : Byte) : (st.poke a v).nmiPrev = st.nmiPrev := rfl
@[simp] theorem SeqState.poke_nmiPending (st : SeqState) (a : Addr) (v : Byte) : (st.poke a v).nmiPending = st.nmiPending := rfl
@[simp] theorem SeqState.poke_freeCount (st : SeqState) (a : Addr) (v : Byte) : (st.poke a v).freeCount = st.freeCount := rfl
@[simp] theorem SeqState.poke_mem (st : SeqState) (a : Addr) (v : Byte) : (st.poke a v).mem = st.mem.write a.toNat v := rfl

@[simp] theorem SeqState.dropNext_a (st : SeqState) : st.dropNext.a = st.a := rfl
@[simp] theorem SeqState.dropNext_x (st : SeqState) : st.dropNext.x = st.x := rfl
@[simp] theorem SeqState.dropNext_y (st : SeqState) : st.dropNext.y = st.y := rfl
@[simp] theorem SeqState.dropNext_s (st : SeqState) : st.dropNext.s = st.s := rfl
@[simp] theorem SeqState.dropNext_p (st : SeqState) : st.dropNext.p = st.p := rfl
@[simp] theorem SeqState.dropNext_pc (st : SeqState) : st.dropNext.pc = st.pc := rfl
@[simp] theorem SeqState.dropNext_adl (st : SeqState) : st.dropNext.adl = st.adl := rfl
@[simp] theorem SeqState.dropNext_adh (st : SeqState) : st.dropNext.adh = st.adh := rfl
@[simp] theorem SeqState.dropNext_eal (st : SeqState) : st.dropNext.eal = st.eal := rfl
@[simp] theorem SeqState.dropNext_eah (st : SeqState) : st.dropNext.eah = st.eah := rfl
@[simp] theorem SeqState.dropNext_dl (st : SeqState) : st.dropNext.dl = st.dl := rfl
@[simp] theorem SeqState.dropNext_irqLine (st : SeqState) : st.dropNext.irqLine = st.irqLine := rfl
@[simp] theorem SeqState.dropNext_nmiLine (st : SeqState) : st.dropNext.nmiLine = st.nmiLine := rfl
@[simp] theorem SeqState.dropNext_nmiPrev (st : SeqState) : st.dropNext.nmiPrev = st.nmiPrev := rfl
@[simp] theorem SeqState.dropNext_nmiPending (st : SeqState) : st.dropNext.nmiPending = st.nmiPending := rfl
@[simp] theorem SeqState.dropNext_mem (st : SeqState) : st.dropNext.mem = st.mem := rfl
@[simp] theorem SeqState.dropNext_freeCount (st : SeqState) : st.dropNext.freeCount = st.freeCount := rfl
@[simp] theorem SeqState.dropNext_q (st : SeqState) : st.dropNext.q = st.q.drop 1 := rfl

@[simp] theorem ImpFn.apply_pc (e : ImpFn) (st : SeqState) : (e.apply st).pc = st.pc := by cases e <;> rfl
@[simp] theorem ImpFn.apply_adl (e : ImpFn) (st : SeqState) : (e.apply st).adl = st.adl := by cases e <;> rfl
@[simp] theorem ImpFn.apply_adh (e : ImpFn) (st : SeqState) : (e.apply st).adh = st.adh := by cases e <;> rfl
@[simp] theorem ImpFn.apply_eal (e : ImpFn) (st : SeqState) : (e.apply st).eal = st.eal := by cases e <;> rfl
@[simp] theorem ImpFn.apply_eah (e : ImpFn) (st : SeqState) : (e.apply st).eah = st.eah := by cases e <;> rfl
@[simp] theorem ImpFn.apply_dl (e : ImpFn) (st : SeqState) : (e.apply st).dl = st.dl := by cases e <;> rfl
@[simp] theorem ImpFn.apply_q (e : ImpFn) (st : SeqState) : (e.apply st).q = st.q := by cases e <;> rfl
@[simp] theorem ImpFn.apply_irqLine (e : ImpFn) (st : SeqState) : (e.apply st).irqLine = st.irqLine := by cases e <;> rfl
@[simp] theorem ImpFn.apply_nmiLine (e : ImpFn) (st : SeqState) : (e.apply st).nmiLine = st.nmiLine := by cases e <;> rfl
@[simp] theorem ImpFn.apply_nmiPrev (e : ImpFn) (st : SeqState) : (e.apply st).nmiPrev = st.nmiPrev := by cases e <;> rfl
@[simp] theorem ImpFn.apply_nmiPending (e : ImpFn) (st : SeqState) : (e.apply st).nmiPending = st.nmiPending := by cases e <;> rfl
@[simp] theorem ImpFn.apply_mem (e : ImpFn) (st : SeqState) : (e.apply st).mem = st.mem := by cases e <;> rfl
@[simp] theorem ImpFn.apply_freeCount (e : ImpFn) (st : SeqState) : (e.apply st).freeCount = st.freeCount := by cases e <;> rfl

@[simp] theorem arrBinary_pc (m : Byte) (st : SeqState) : (arrBinary m st).pc = st.pc := rfl
@[simp] theorem arrDecimal_pc (st : SeqState) : (arrDecimal st).pc = st.pc := rfl
@[simp] theorem ReadFn.apply_pc (mode : DecimalMode) (e : ReadFn) (m : Byte) (st : SeqState) :
    (e.apply mode m st).pc = st.pc := by
  cases e <;> first | rfl | (simp only [ReadFn.apply]; split <;> rfl)
@[simp] theorem arrBinary_adl (m : Byte) (st : SeqState) : (arrBinary m st).adl = st.adl := rfl
@[simp] theorem arrDecimal_adl (st : SeqState) : (arrDecimal st).adl = st.adl := rfl
@[simp] theorem ReadFn.apply_adl (mode : DecimalMode) (e : ReadFn) (m : Byte) (st : SeqState) :
    (e.apply mode m st).adl = st.adl := by
  cases e <;> first | rfl | (simp only [ReadFn.apply]; split <;> rfl)
@[simp] theorem arrBinary_adh (m : Byte) (st : SeqState) : (arrBinary m st).adh = st.adh := rfl
@[simp] theorem arrDecimal_adh (st : SeqState) : (arrDecimal st).adh = st.adh := rfl
@[simp] theorem ReadFn.apply_adh (mode : DecimalMode) (e : ReadFn) (m : Byte) (st : SeqState) :
    (e.apply mode m st).adh = st.adh := by
  cases e <;> first | rfl | (simp only [ReadFn.apply]; split <;> rfl)
@[simp] theorem arrBinary_eal (m : Byte) (st : SeqState) : (arrBinary m st).eal = st.eal := rfl
@[simp] theorem arrDecimal_eal (st : SeqState) : (arrDecimal st).eal = st.eal := rfl
@[simp] theorem ReadFn.apply_eal (mode : DecimalMode) (e : ReadFn) (m : Byte) (st : SeqState) :
    (e.apply mode m st).eal = st.eal := by
  cases e <;> first | rfl | (simp only [ReadFn.apply]; split <;> rfl)
@[simp] theorem arrBinary_eah (m : Byte) (st : SeqState) : (arrBinary m st).eah = st.eah := rfl
@[simp] theorem arrDecimal_eah (st : SeqState) : (arrDecimal st).eah = st.eah := rfl
@[simp] theorem ReadFn.apply_eah (mode : DecimalMode) (e : ReadFn) (m : Byte) (st : SeqState) :
    (e.apply mode m st).eah = st.eah := by
  cases e <;> first | rfl | (simp only [ReadFn.apply]; split <;> rfl)
@[simp] theorem arrBinary_dl (m : Byte) (st : SeqState) : (arrBinary m st).dl = st.dl := rfl
@[simp] theorem arrDecimal_dl (st : SeqState) : (arrDecimal st).dl = st.dl := rfl
@[simp] theorem ReadFn.apply_dl (mode : DecimalMode) (e : ReadFn) (m : Byte) (st : SeqState) :
    (e.apply mode m st).dl = st.dl := by
  cases e <;> first | rfl | (simp only [ReadFn.apply]; split <;> rfl)
@[simp] theorem arrBinary_q (m : Byte) (st : SeqState) : (arrBinary m st).q = st.q := rfl
@[simp] theorem arrDecimal_q (st : SeqState) : (arrDecimal st).q = st.q := rfl
@[simp] theorem ReadFn.apply_q (mode : DecimalMode) (e : ReadFn) (m : Byte) (st : SeqState) :
    (e.apply mode m st).q = st.q := by
  cases e <;> first | rfl | (simp only [ReadFn.apply]; split <;> rfl)
@[simp] theorem arrBinary_irqLine (m : Byte) (st : SeqState) : (arrBinary m st).irqLine = st.irqLine := rfl
@[simp] theorem arrDecimal_irqLine (st : SeqState) : (arrDecimal st).irqLine = st.irqLine := rfl
@[simp] theorem ReadFn.apply_irqLine (mode : DecimalMode) (e : ReadFn) (m : Byte) (st : SeqState) :
    (e.apply mode m st).irqLine = st.irqLine := by
  cases e <;> first | rfl | (simp only [ReadFn.apply]; split <;> rfl)
@[simp] theorem arrBinary_nmiLine (m : Byte) (st : SeqState) : (arrBinary m st).nmiLine = st.nmiLine := rfl
@[simp] theorem arrDecimal_nmiLine (st : SeqState) : (arrDecimal st).nmiLine = st.nmiLine := rfl
@[simp] theorem ReadFn.apply_nmiLine (mode : DecimalMode) (e : ReadFn) (m : Byte) (st : SeqState) :
    (e.apply mode m st).nmiLine = st.nmiLine := by
  cases e <;> first | rfl | (simp only [ReadFn.apply]; split <;> rfl)
@[simp] theorem arrBinary_nmiPrev (m : Byte) (st : SeqState) : (arrBinary m st).nmiPrev = st.nmiPrev := rfl
@[simp] theorem arrDecimal_nmiPrev (st : SeqState) : (arrDecimal st).nmiPrev = st.nmiPrev := rfl
@[simp] theorem ReadFn.apply_nmiPrev (mode : DecimalMode) (e : ReadFn) (m : Byte) (st : SeqState) :
    (e.apply mode m st).nmiPrev = st.nmiPrev := by
  cases e <;> first | rfl | (simp only [ReadFn.apply]; split <;> rfl)
@[simp] theorem arrBinary_nmiPending (m : Byte) (st : SeqState) : (arrBinary m st).nmiPending = st.nmiPending := rfl
@[simp] theorem arrDecimal_nmiPending (st : SeqState) : (arrDecimal st).nmiPending = st.nmiPending := rfl
@[simp] theorem ReadFn.apply_nmiPending (mode : DecimalMode) (e : ReadFn) (m : Byte) (st : SeqState) :
    (e.apply mode m st).nmiPending = st.nmiPending := by
  cases e <;> first | rfl | (simp only [ReadFn.apply]; split <;> rfl)
@[simp] theorem arrBinary_mem (m : Byte) (st : SeqState) : (arrBinary m st).mem = st.mem := rfl
@[simp] theorem arrDecimal_mem (st : SeqState) : (arrDecimal st).mem = st.mem := rfl
@[simp] theorem ReadFn.apply_mem (mode : DecimalMode) (e : ReadFn) (m : Byte) (st : SeqState) :
    (e.apply mode m st).mem = st.mem := by
  cases e <;> first | rfl | (simp only [ReadFn.apply]; split <;> rfl)

/-- Dropping a queue entry and a read effect do not see each other. -/
theorem ReadFn.apply_dropNext (mode : DecimalMode) (e : ReadFn) (m : Byte) (st : SeqState) :
    (e.apply mode m st).dropNext = e.apply mode m st.dropNext := by
  cases e <;> first | rfl | (simp only [ReadFn.apply]; split <;> (simp only [SeqState.dropNext]; simp_all) <;> rfl)

/-- No read function writes `Y` (R174, files 42, 43 and 45), but `LDY`. -/
theorem ReadFn.apply_y (mode : DecimalMode) (e : ReadFn) (m : Byte) (st : SeqState) (h : e ≠ .ldy) :
    (e.apply mode m st).y = st.y := by
  cases e <;> first | rfl | contradiction | (simp only [ReadFn.apply]; split <;> rfl)

@[simp] theorem RmwFn.apply_x (mode : DecimalMode) (e : RmwFn) (m : Byte) (st : SeqState) :
    (e.apply mode m st).st.x = st.x := by cases e <;> rfl
@[simp] theorem RmwFn.apply_y (mode : DecimalMode) (e : RmwFn) (m : Byte) (st : SeqState) :
    (e.apply mode m st).st.y = st.y := by cases e <;> rfl
@[simp] theorem RmwFn.apply_s (mode : DecimalMode) (e : RmwFn) (m : Byte) (st : SeqState) :
    (e.apply mode m st).st.s = st.s := by cases e <;> rfl
@[simp] theorem RmwFn.apply_pc (mode : DecimalMode) (e : RmwFn) (m : Byte) (st : SeqState) :
    (e.apply mode m st).st.pc = st.pc := by cases e <;> rfl
@[simp] theorem RmwFn.apply_adl (mode : DecimalMode) (e : RmwFn) (m : Byte) (st : SeqState) :
    (e.apply mode m st).st.adl = st.adl := by cases e <;> rfl
@[simp] theorem RmwFn.apply_adh (mode : DecimalMode) (e : RmwFn) (m : Byte) (st : SeqState) :
    (e.apply mode m st).st.adh = st.adh := by cases e <;> rfl
@[simp] theorem RmwFn.apply_eal (mode : DecimalMode) (e : RmwFn) (m : Byte) (st : SeqState) :
    (e.apply mode m st).st.eal = st.eal := by cases e <;> rfl
@[simp] theorem RmwFn.apply_eah (mode : DecimalMode) (e : RmwFn) (m : Byte) (st : SeqState) :
    (e.apply mode m st).st.eah = st.eah := by cases e <;> rfl
@[simp] theorem RmwFn.apply_dl (mode : DecimalMode) (e : RmwFn) (m : Byte) (st : SeqState) :
    (e.apply mode m st).st.dl = st.dl := by cases e <;> rfl
@[simp] theorem RmwFn.apply_q (mode : DecimalMode) (e : RmwFn) (m : Byte) (st : SeqState) :
    (e.apply mode m st).st.q = st.q := by cases e <;> rfl
@[simp] theorem RmwFn.apply_irqLine (mode : DecimalMode) (e : RmwFn) (m : Byte) (st : SeqState) :
    (e.apply mode m st).st.irqLine = st.irqLine := by cases e <;> rfl
@[simp] theorem RmwFn.apply_nmiLine (mode : DecimalMode) (e : RmwFn) (m : Byte) (st : SeqState) :
    (e.apply mode m st).st.nmiLine = st.nmiLine := by cases e <;> rfl
@[simp] theorem RmwFn.apply_nmiPrev (mode : DecimalMode) (e : RmwFn) (m : Byte) (st : SeqState) :
    (e.apply mode m st).st.nmiPrev = st.nmiPrev := by cases e <;> rfl
@[simp] theorem RmwFn.apply_nmiPending (mode : DecimalMode) (e : RmwFn) (m : Byte) (st : SeqState) :
    (e.apply mode m st).st.nmiPending = st.nmiPending := by cases e <;> rfl
@[simp] theorem RmwFn.apply_mem (mode : DecimalMode) (e : RmwFn) (m : Byte) (st : SeqState) :
    (e.apply mode m st).st.mem = st.mem := by cases e <;> rfl
@[simp] theorem RmwFn.apply_freeCount (mode : DecimalMode) (e : RmwFn) (m : Byte) (st : SeqState) :
    (e.apply mode m st).st.freeCount = st.freeCount := by cases e <;> rfl

@[simp] theorem LoadFn.apply_x (l : LoadFn) (m : Byte) (st : SeqState) : (l.apply m st).x = st.x := by cases l <;> rfl
@[simp] theorem LoadFn.apply_y (l : LoadFn) (m : Byte) (st : SeqState) : (l.apply m st).y = st.y := by cases l <;> rfl
@[simp] theorem LoadFn.apply_adl (l : LoadFn) (m : Byte) (st : SeqState) : (l.apply m st).adl = st.adl := by cases l <;> rfl
@[simp] theorem LoadFn.apply_adh (l : LoadFn) (m : Byte) (st : SeqState) : (l.apply m st).adh = st.adh := by cases l <;> rfl
@[simp] theorem LoadFn.apply_eal (l : LoadFn) (m : Byte) (st : SeqState) : (l.apply m st).eal = st.eal := by cases l <;> rfl
@[simp] theorem LoadFn.apply_eah (l : LoadFn) (m : Byte) (st : SeqState) : (l.apply m st).eah = st.eah := by cases l <;> rfl
@[simp] theorem LoadFn.apply_dl (l : LoadFn) (m : Byte) (st : SeqState) : (l.apply m st).dl = st.dl := by cases l <;> rfl
@[simp] theorem LoadFn.apply_q (l : LoadFn) (m : Byte) (st : SeqState) : (l.apply m st).q = st.q := by cases l <;> rfl
@[simp] theorem LoadFn.apply_irqLine (l : LoadFn) (m : Byte) (st : SeqState) : (l.apply m st).irqLine = st.irqLine := by cases l <;> rfl
@[simp] theorem LoadFn.apply_nmiLine (l : LoadFn) (m : Byte) (st : SeqState) : (l.apply m st).nmiLine = st.nmiLine := by cases l <;> rfl
@[simp] theorem LoadFn.apply_nmiPrev (l : LoadFn) (m : Byte) (st : SeqState) : (l.apply m st).nmiPrev = st.nmiPrev := by cases l <;> rfl
@[simp] theorem LoadFn.apply_nmiPending (l : LoadFn) (m : Byte) (st : SeqState) : (l.apply m st).nmiPending = st.nmiPending := by cases l <;> rfl
@[simp] theorem LoadFn.apply_mem (l : LoadFn) (m : Byte) (st : SeqState) : (l.apply m st).mem = st.mem := by cases l <;> rfl
@[simp] theorem LoadFn.apply_freeCount (l : LoadFn) (m : Byte) (st : SeqState) : (l.apply m st).freeCount = st.freeCount := by cases l <;> rfl
@[simp] theorem LoadFn.apply_s (l : LoadFn) (m : Byte) (st : SeqState) : (l.apply m st).s = st.s := by cases l <;> rfl

/-- What a store stores comes from the registers alone (R174). -/
theorem StoreFn.value_congr (st : SeqState) {st' : SeqState} (v : StoreFn) (ha : st'.a = st.a) (hx : st'.x = st.x)
    (hy : st'.y = st.y) : v.value st' = v.value st := by
  cases v <;> simp [StoreFn.value, ha, hx, hy]

/-- An effect of the rmw class looks at the registers only, not at memory or at the latches (R174). -/
theorem RmwFn.apply_congr (mode : DecimalMode) (e : RmwFn) (m : Byte) {st st' : SeqState}
    (ha : st.a = st'.a) (hp : st.p = st'.p) :
    (e.apply mode m st).v = (e.apply mode m st').v ∧ (e.apply mode m st).st.a = (e.apply mode m st').st.a
      ∧ (e.apply mode m st).st.p = (e.apply mode m st').st.p := by
  cases e <;> simp [RmwFn.apply, SeqState.flag, ha, hp]

end Sys2Proof.Machine
end

