-- ==== Sys2Proof/Laws/Sequences.lean ====
section
/-! SUPPORT. What running each sequence of R180 to R209 does on a bus of 65536 bytes: one lemma per access class, citing
the net address of R91. -/

set_option linter.unusedSimpArgs false

namespace Sys2Proof.Machine

/-- Without a carry the indexed address is right at once (R177, R192). -/
theorem cat_add_of_not_carries {h l i : Byte} (hc : carries l i = false) :
    cat h (l + i) = cat h l + i.setWidth 16 := by
  have := h.isLt; have := l.isLt; have := i.isLt
  simp only [carries, decide_eq_false_iff_not] at hc
  apply BitVec.eq_of_toNat_eq
  simp only [cat_toNat, BitVec.toNat_add, BitVec.toNat_setWidth]
  omega

/-- With a carry it is right once the high byte is corrected (R177, R192). -/
theorem cat_add_of_carries {h l i : Byte} (hc : carries l i = true) :
    cat (h + 1) (l + i) = cat h l + i.setWidth 16 := by
  have := h.isLt; have := l.isLt; have := i.isLt
  simp only [carries, decide_eq_true_eq] at hc
  apply BitVec.eq_of_toNat_eq
  have h1 : BitVec.toNat (1 : Byte) = 1 := rfl
  simp only [cat_toNat, BitVec.toNat_add, BitVec.toNat_setWidth, h1]
  omega

/-- What fetching an operand leaves as it was, with `PC` moved past `n` bytes and the queue empty. -/
structure Arrived (n : Addr) (st st' : SeqState) : Prop where
  a : st'.a = st.a
  x : st'.x = st.x
  y : st'.y = st.y
  s : st'.s = st.s
  p : st'.p = st.p
  pc : st'.pc = st.pc + n
  mem : st'.mem = st.mem
  q : st'.q = []
  irqLine : st'.irqLine = st.irqLine
  nmiLine : st'.nmiLine = st.nmiLine
  nmiPrev : st'.nmiPrev = st.nmiPrev
  nmiPending : st'.nmiPending = st.nmiPending
  freeCount : st'.freeCount = st.freeCount

/-- How many bytes an operand form takes after the opcode byte (R91). -/
def operandBytes : Format → Addr
  | .imp | .acc => 0
  | .imm | .zp | .zpx | .zpy | .izx | .izy | .rel => 1
  | .abs | .abx | .aby | .ind => 2

/-- A read-class sequence reads its operand at the net address of R91 and hands it to the effect function (R181, R182,
R185, R188, R192, R195, R198). -/
theorem runSequence_read {p : Params} (hp : p.busSize = 65536) {f : Format} {e : ReadFn} {ops : List MicroOp}
    (hs : readSequence f e = some ops) {a : Addr} (st : SeqState) (ha : operandAddr f st = some a) :
    ∃ st', Arrived (1 + operandBytes f) st st' ∧
      runSequence p ops st = .ok (e.apply p.decimalMode (st.peek a) st') := by
  cases f <;> simp only [readSequence, reduceCtorEq, Option.some.injEq] at hs <;> subst hs <;>
    simp only [operandAddr, Option.some.injEq] at ha <;> subst ha
  case imm =>
    refine ⟨{ st with dl := st.peek (st.pc + 1), pc := st.pc + 1 + 1, q := [] }, ?_, ?_⟩
    · constructor <;> first | rfl | (simp [operandBytes, BitVec.add_assoc])
    · simp [seqImm, -BitVec.toNat_add, BitVec.add_assoc, runSequence, finish, MicroOp.isFree, runOp_full hp,
      MicroOp.request, MicroOp.effect, SeqState.peek, SeqState.operand1, SeqState.operand2, SeqState.operandWord,
      SeqState.zpPointer, LatchPair.addr, LatchPair.indexedAddr, LatchPair.hi, LatchPair.lo, LatchPair.setLo,
      LatchPair.setHi, IndexReg.get, zeroPageAddr, applyRead, ↓ReadFn.apply_dropNext, SeqState.dropNext]
  case zp =>
    refine ⟨{ st with adl := st.operand1, adh := 0, dl := st.peek (zeroPageAddr st.operand1), pc := st.pc + 1 + 1, q := [] }, ?_, ?_⟩
    · constructor <;> first | rfl | (simp [operandBytes, BitVec.add_assoc])
    · simp [seqZpRead, -BitVec.toNat_add, BitVec.add_assoc, runSequence, finish, MicroOp.isFree, runOp_full hp,
      MicroOp.request, MicroOp.effect, SeqState.peek, SeqState.operand1, SeqState.operand2, SeqState.operandWord,
      SeqState.zpPointer, LatchPair.addr, LatchPair.indexedAddr, LatchPair.hi, LatchPair.lo, LatchPair.setLo,
      LatchPair.setHi, IndexReg.get, zeroPageAddr, applyRead, ↓ReadFn.apply_dropNext, SeqState.dropNext]
  case zpx =>
    refine ⟨{ st with adl := st.operand1 + st.x, adh := 0, dl := st.peek (zeroPageAddr (st.operand1 + st.x)), pc := st.pc + 1 + 1, q := [] }, ?_, ?_⟩
    · constructor <;> first | rfl | (simp [operandBytes, BitVec.add_assoc])
    · simp [seqZpIdxRead, -BitVec.toNat_add, BitVec.add_assoc, runSequence, finish, MicroOp.isFree, runOp_full hp,
      MicroOp.request, MicroOp.effect, SeqState.peek, SeqState.operand1, SeqState.operand2, SeqState.operandWord,
      SeqState.zpPointer, LatchPair.addr, LatchPair.indexedAddr, LatchPair.hi, LatchPair.lo, LatchPair.setLo,
      LatchPair.setHi, IndexReg.get, zeroPageAddr, applyRead, ↓ReadFn.apply_dropNext, SeqState.dropNext]
  case zpy =>
    refine ⟨{ st with adl := st.operand1 + st.y, adh := 0, dl := st.peek (zeroPageAddr (st.operand1 + st.y)), pc := st.pc + 1 + 1, q := [] }, ?_, ?_⟩
    · constructor <;> first | rfl | (simp [operandBytes, BitVec.add_assoc])
    · simp [seqZpIdxRead, -BitVec.toNat_add, BitVec.add_assoc, runSequence, finish, MicroOp.isFree, runOp_full hp,
      MicroOp.request, MicroOp.effect, SeqState.peek, SeqState.operand1, SeqState.operand2, SeqState.operandWord,
      SeqState.zpPointer, LatchPair.addr, LatchPair.indexedAddr, LatchPair.hi, LatchPair.lo, LatchPair.setLo,
      LatchPair.setHi, IndexReg.get, zeroPageAddr, applyRead, ↓ReadFn.apply_dropNext, SeqState.dropNext]
  case abs =>
    refine ⟨{ st with adl := st.operand1, adh := st.operand2, dl := st.peek st.operandWord, pc := st.pc + 1 + 1 + 1, q := [] }, ?_, ?_⟩
    · constructor <;> first | rfl | (simp [operandBytes, BitVec.add_assoc])
    · simp [seqAbsRead, -BitVec.toNat_add, BitVec.add_assoc, runSequence, finish, MicroOp.isFree, runOp_full hp,
      MicroOp.request, MicroOp.effect, SeqState.peek, SeqState.operand1, SeqState.operand2, SeqState.operandWord,
      SeqState.zpPointer, LatchPair.addr, LatchPair.indexedAddr, LatchPair.hi, LatchPair.lo, LatchPair.setLo,
      LatchPair.setHi, IndexReg.get, zeroPageAddr, applyRead, ↓ReadFn.apply_dropNext, SeqState.dropNext]
  case izx =>
    refine ⟨{ st with adl := st.operand1 + st.x, adh := 0, eal := st.peek (zeroPageAddr (st.operand1 + st.x)), eah := st.peek (zeroPageAddr (st.operand1 + st.x + 1)), dl := st.peek (st.zpPointer (st.operand1 + st.x)), pc := st.pc + 1 + 1, q := [] }, ?_, ?_⟩
    · constructor <;> first | rfl | (simp [operandBytes, BitVec.add_assoc])
    · simp [seqIzxRead, -BitVec.toNat_add, BitVec.add_assoc, runSequence, finish, MicroOp.isFree, runOp_full hp,
      MicroOp.request, MicroOp.effect, SeqState.peek, SeqState.operand1, SeqState.operand2, SeqState.operandWord,
      SeqState.zpPointer, LatchPair.addr, LatchPair.indexedAddr, LatchPair.hi, LatchPair.lo, LatchPair.setLo,
      LatchPair.setHi, IndexReg.get, zeroPageAddr, applyRead, ↓ReadFn.apply_dropNext, SeqState.dropNext]
  case abx =>
    cases hc : carries (st.operand1) st.x with
    | false =>
      rw [SeqState.operandWord, ← cat_add_of_not_carries hc]
      simp [-BitVec.toNat_add, SeqState.operand1, SeqState.peek, zeroPageAddr] at hc
      refine ⟨{ st with adl := st.operand1 + st.x, adh := st.operand2, dl := st.peek (cat (st.operand2) (st.operand1 + st.x)), pc := st.pc + 1 + 1 + 1, q := [] }, ?_, ?_⟩
      · constructor <;> first | rfl | (simp [operandBytes, BitVec.add_assoc])
      · simp [seqAbsIdxRead, -BitVec.toNat_add, BitVec.add_assoc, runSequence, finish, MicroOp.isFree, runOp_full hp,
      MicroOp.request, MicroOp.effect, SeqState.peek, SeqState.operand1, SeqState.operand2, SeqState.operandWord,
      SeqState.zpPointer, LatchPair.addr, LatchPair.indexedAddr, LatchPair.hi, LatchPair.lo, LatchPair.setLo,
      LatchPair.setHi, IndexReg.get, zeroPageAddr, applyRead, hc, ↓ReadFn.apply_dropNext, SeqState.dropNext]
    | true =>
      rw [SeqState.operandWord, ← cat_add_of_carries hc]
      simp [-BitVec.toNat_add, SeqState.operand1, SeqState.peek, zeroPageAddr] at hc
      refine ⟨{ st with adl := st.operand1 + st.x, adh := (st.operand2 + 1), dl := st.peek (cat ((st.operand2 + 1)) (st.operand1 + st.x)), pc := st.pc + 1 + 1 + 1, q := [] }, ?_, ?_⟩
      · constructor <;> first | rfl | (simp [operandBytes, BitVec.add_assoc])
      · simp [seqAbsIdxRead, -BitVec.toNat_add, BitVec.add_assoc, runSequence, finish, MicroOp.isFree, runOp_full hp,
      MicroOp.request, MicroOp.effect, SeqState.peek, SeqState.operand1, SeqState.operand2, SeqState.operandWord,
      SeqState.zpPointer, LatchPair.addr, LatchPair.indexedAddr, LatchPair.hi, LatchPair.lo, LatchPair.setLo,
      LatchPair.setHi, IndexReg.get, zeroPageAddr, applyRead, hc, ↓ReadFn.apply_dropNext, SeqState.dropNext]
  case aby =>
    cases hc : carries (st.operand1) st.y with
    | false =>
      rw [SeqState.operandWord, ← cat_add_of_not_carries hc]
      simp [-BitVec.toNat_add, SeqState.operand1, SeqState.peek, zeroPageAddr] at hc
      refine ⟨{ st with adl := st.operand1 + st.y, adh := st.operand2, dl := st.peek (cat (st.operand2) (st.operand1 + st.y)), pc := st.pc + 1 + 1 + 1, q := [] }, ?_, ?_⟩
      · constructor <;> first | rfl | (simp [operandBytes, BitVec.add_assoc])
      · simp [seqAbsIdxRead, -BitVec.toNat_add, BitVec.add_assoc, runSequence, finish, MicroOp.isFree, runOp_full hp,
      MicroOp.request, MicroOp.effect, SeqState.peek, SeqState.operand1, SeqState.operand2, SeqState.operandWord,
      SeqState.zpPointer, LatchPair.addr, LatchPair.indexedAddr, LatchPair.hi, LatchPair.lo, LatchPair.setLo,
      LatchPair.setHi, IndexReg.get, zeroPageAddr, applyRead, hc, ↓ReadFn.apply_dropNext, SeqState.dropNext]
    | true =>
      rw [SeqState.operandWord, ← cat_add_of_carries hc]
      simp [-BitVec.toNat_add, SeqState.operand1, SeqState.peek, zeroPageAddr] at hc
      refine ⟨{ st with adl := st.operand1 + st.y, adh := (st.operand2 + 1), dl := st.peek (cat ((st.operand2 + 1)) (st.operand1 + st.y)), pc := st.pc + 1 + 1 + 1, q := [] }, ?_, ?_⟩
      · constructor <;> first | rfl | (simp [operandBytes, BitVec.add_assoc])
      · simp [seqAbsIdxRead, -BitVec.toNat_add, BitVec.add_assoc, runSequence, finish, MicroOp.isFree, runOp_full hp,
      MicroOp.request, MicroOp.effect, SeqState.peek, SeqState.operand1, SeqState.operand2, SeqState.operandWord,
      SeqState.zpPointer, LatchPair.addr, LatchPair.indexedAddr, LatchPair.hi, LatchPair.lo, LatchPair.setLo,
      LatchPair.setHi, IndexReg.get, zeroPageAddr, applyRead, hc, ↓ReadFn.apply_dropNext, SeqState.dropNext]
  case izy =>
    cases hc : carries (st.peek (zeroPageAddr st.operand1)) st.y with
    | false =>
      rw [SeqState.zpPointer, ← cat_add_of_not_carries hc]
      simp [-BitVec.toNat_add, SeqState.operand1, SeqState.peek, zeroPageAddr] at hc
      refine ⟨{ st with adl := st.operand1, adh := 0, eal := st.peek (zeroPageAddr st.operand1) + st.y, eah := st.peek (zeroPageAddr (st.operand1 + 1)), dl := st.peek (cat (st.peek (zeroPageAddr (st.operand1 + 1))) (st.peek (zeroPageAddr st.operand1) + st.y)), pc := st.pc + 1 + 1, q := [] }, ?_, ?_⟩
      · constructor <;> first | rfl | (simp [operandBytes, BitVec.add_assoc])
      · simp [seqIzyRead, -BitVec.toNat_add, BitVec.add_assoc, runSequence, finish, MicroOp.isFree, runOp_full hp,
      MicroOp.request, MicroOp.effect, SeqState.peek, SeqState.operand1, SeqState.operand2, SeqState.operandWord,
      SeqState.zpPointer, LatchPair.addr, LatchPair.indexedAddr, LatchPair.hi, LatchPair.lo, LatchPair.setLo,
      LatchPair.setHi, IndexReg.get, zeroPageAddr, applyRead, hc, ↓ReadFn.apply_dropNext, SeqState.dropNext]
    | true =>
      rw [SeqState.zpPointer, ← cat_add_of_carries hc]
      simp [-BitVec.toNat_add, SeqState.operand1, SeqState.peek, zeroPageAddr] at hc
      refine ⟨{ st with adl := st.operand1, adh := 0, eal := st.peek (zeroPageAddr st.operand1) + st.y, eah := (st.peek (zeroPageAddr (st.operand1 + 1)) + 1), dl := st.peek (cat ((st.peek (zeroPageAddr (st.operand1 + 1)) + 1)) (st.peek (zeroPageAddr st.operand1) + st.y)), pc := st.pc + 1 + 1, q := [] }, ?_, ?_⟩
      · constructor <;> first | rfl | (simp [operandBytes, BitVec.add_assoc])
      · simp [seqIzyRead, -BitVec.toNat_add, BitVec.add_assoc, runSequence, finish, MicroOp.isFree, runOp_full hp,
      MicroOp.request, MicroOp.effect, SeqState.peek, SeqState.operand1, SeqState.operand2, SeqState.operandWord,
      SeqState.zpPointer, LatchPair.addr, LatchPair.indexedAddr, LatchPair.hi, LatchPair.lo, LatchPair.setLo,
      LatchPair.setHi, IndexReg.get, zeroPageAddr, applyRead, hc, ↓ReadFn.apply_dropNext, SeqState.dropNext]

/-- A write-class sequence stores the value once, at the net address of R91 (R183, R186, R189, R193, R196, R199). -/
theorem runSequence_write {p : Params} (hp : p.busSize = 65536) {f : Format} {e : StoreFn} {ops : List MicroOp}
    (hs : writeSequence f e = some ops) {a : Addr} (st : SeqState) (ha : operandAddr f st = some a) :
    ∃ st', Arrived (1 + operandBytes f) st st' ∧
      runSequence p ops st = .ok (st'.poke a (e.value st)) := by
  cases f <;> simp only [writeSequence, reduceCtorEq, Option.some.injEq] at hs <;> subst hs <;>
    simp only [operandAddr, Option.some.injEq] at ha <;> subst ha
  case zp =>
    refine ⟨{ st with adl := st.operand1, adh := 0, pc := st.pc + 1 + 1, q := [] }, ?_, ?_⟩
    · constructor <;> first | rfl | (simp [operandBytes, BitVec.add_assoc])
    · simp [seqZpWrite, -BitVec.toNat_add, BitVec.add_assoc, runSequence, finish, MicroOp.isFree, runOp_full hp,
      MicroOp.request, MicroOp.effect, SeqState.peek, SeqState.operand1, SeqState.operand2, SeqState.operandWord,
      SeqState.zpPointer, LatchPair.addr, LatchPair.indexedAddr, LatchPair.hi, LatchPair.lo, LatchPair.setLo,
      LatchPair.setHi, IndexReg.get, zeroPageAddr, applyRead, SeqState.poke, StoreFn.value_congr st]
  case zpx =>
    refine ⟨{ st with adl := st.operand1 + st.x, adh := 0, pc := st.pc + 1 + 1, q := [] }, ?_, ?_⟩
    · constructor <;> first | rfl | (simp [operandBytes, BitVec.add_assoc])
    · simp [seqZpIdxWrite, -BitVec.toNat_add, BitVec.add_assoc, runSequence, finish, MicroOp.isFree, runOp_full hp,
      MicroOp.request, MicroOp.effect, SeqState.peek, SeqState.operand1, SeqState.operand2, SeqState.operandWord,
      SeqState.zpPointer, LatchPair.addr, LatchPair.indexedAddr, LatchPair.hi, LatchPair.lo, LatchPair.setLo,
      LatchPair.setHi, IndexReg.get, zeroPageAddr, applyRead, SeqState.poke, StoreFn.value_congr st]
  case zpy =>
    refine ⟨{ st with adl := st.operand1 + st.y, adh := 0, pc := st.pc + 1 + 1, q := [] }, ?_, ?_⟩
    · constructor <;> first | rfl | (simp [operandBytes, BitVec.add_assoc])
    · simp [seqZpIdxWrite, -BitVec.toNat_add, BitVec.add_assoc, runSequence, finish, MicroOp.isFree, runOp_full hp,
      MicroOp.request, MicroOp.effect, SeqState.peek, SeqState.operand1, SeqState.operand2, SeqState.operandWord,
      SeqState.zpPointer, LatchPair.addr, LatchPair.indexedAddr, LatchPair.hi, LatchPair.lo, LatchPair.setLo,
      LatchPair.setHi, IndexReg.get, zeroPageAddr, applyRead, SeqState.poke, StoreFn.value_congr st]
  case abs =>
    refine ⟨{ st with adl := st.operand1, adh := st.operand2, pc := st.pc + 1 + 1 + 1, q := [] }, ?_, ?_⟩
    · constructor <;> first | rfl | (simp [operandBytes, BitVec.add_assoc])
    · simp [seqAbsWrite, -BitVec.toNat_add, BitVec.add_assoc, runSequence, finish, MicroOp.isFree, runOp_full hp,
      MicroOp.request, MicroOp.effect, SeqState.peek, SeqState.operand1, SeqState.operand2, SeqState.operandWord,
      SeqState.zpPointer, LatchPair.addr, LatchPair.indexedAddr, LatchPair.hi, LatchPair.lo, LatchPair.setLo,
      LatchPair.setHi, IndexReg.get, zeroPageAddr, applyRead, SeqState.poke, StoreFn.value_congr st]
  case izx =>
    refine ⟨{ st with adl := st.operand1 + st.x, adh := 0, eal := st.peek (zeroPageAddr (st.operand1 + st.x)), eah := st.peek (zeroPageAddr (st.operand1 + st.x + 1)), pc := st.pc + 1 + 1, q := [] }, ?_, ?_⟩
    · constructor <;> first | rfl | (simp [operandBytes, BitVec.add_assoc])
    · simp [seqIzxWrite, -BitVec.toNat_add, BitVec.add_assoc, runSequence, finish, MicroOp.isFree, runOp_full hp,
      MicroOp.request, MicroOp.effect, SeqState.peek, SeqState.operand1, SeqState.operand2, SeqState.operandWord,
      SeqState.zpPointer, LatchPair.addr, LatchPair.indexedAddr, LatchPair.hi, LatchPair.lo, LatchPair.setLo,
      LatchPair.setHi, IndexReg.get, zeroPageAddr, applyRead, SeqState.poke, StoreFn.value_congr st]
  case abx =>
    cases hc : carries (st.operand1) st.x with
    | false =>
      rw [SeqState.operandWord, ← cat_add_of_not_carries hc]
      simp [-BitVec.toNat_add, SeqState.operand1, SeqState.peek, zeroPageAddr] at hc
      refine ⟨{ st with adl := st.operand1 + st.x, adh := st.operand2, pc := st.pc + 1 + 1 + 1, q := [] }, ?_, ?_⟩
      · constructor <;> first | rfl | (simp [operandBytes, BitVec.add_assoc])
      · simp [seqAbsIdxWrite, -BitVec.toNat_add, BitVec.add_assoc, runSequence, finish, MicroOp.isFree, runOp_full hp,
      MicroOp.request, MicroOp.effect, SeqState.peek, SeqState.operand1, SeqState.operand2, SeqState.operandWord,
      SeqState.zpPointer, LatchPair.addr, LatchPair.indexedAddr, LatchPair.hi, LatchPair.lo, LatchPair.setLo,
      LatchPair.setHi, IndexReg.get, zeroPageAddr, applyRead, hc, SeqState.poke, StoreFn.value_congr st]
    | true =>
      rw [SeqState.operandWord, ← cat_add_of_carries hc]
      simp [-BitVec.toNat_add, SeqState.operand1, SeqState.peek, zeroPageAddr] at hc
      refine ⟨{ st with adl := st.operand1 + st.x, adh := (st.operand2 + 1), pc := st.pc + 1 + 1 + 1, q := [] }, ?_, ?_⟩
      · constructor <;> first | rfl | (simp [operandBytes, BitVec.add_assoc])
      · simp [seqAbsIdxWrite, -BitVec.toNat_add, BitVec.add_assoc, runSequence, finish, MicroOp.isFree, runOp_full hp,
      MicroOp.request, MicroOp.effect, SeqState.peek, SeqState.operand1, SeqState.operand2, SeqState.operandWord,
      SeqState.zpPointer, LatchPair.addr, LatchPair.indexedAddr, LatchPair.hi, LatchPair.lo, LatchPair.setLo,
      LatchPair.setHi, IndexReg.get, zeroPageAddr, applyRead, hc, SeqState.poke, StoreFn.value_congr st]
  case aby =>
    cases hc : carries (st.operand1) st.y with
    | false =>
      rw [SeqState.operandWord, ← cat_add_of_not_carries hc]
      simp [-BitVec.toNat_add, SeqState.operand1, SeqState.peek, zeroPageAddr] at hc
      refine ⟨{ st with adl := st.operand1 + st.y, adh := st.operand2, pc := st.pc + 1 + 1 + 1, q := [] }, ?_, ?_⟩
      · constructor <;> first | rfl | (simp [operandBytes, BitVec.add_assoc])
      · simp [seqAbsIdxWrite, -BitVec.toNat_add, BitVec.add_assoc, runSequence, finish, MicroOp.isFree, runOp_full hp,
      MicroOp.request, MicroOp.effect, SeqState.peek, SeqState.operand1, SeqState.operand2, SeqState.operandWord,
      SeqState.zpPointer, LatchPair.addr, LatchPair.indexedAddr, LatchPair.hi, LatchPair.lo, LatchPair.setLo,
      LatchPair.setHi, IndexReg.get, zeroPageAddr, applyRead, hc, SeqState.poke, StoreFn.value_congr st]
    | true =>
      rw [SeqState.operandWord, ← cat_add_of_carries hc]
      simp [-BitVec.toNat_add, SeqState.operand1, SeqState.peek, zeroPageAddr] at hc
      refine ⟨{ st with adl := st.operand1 + st.y, adh := (st.operand2 + 1), pc := st.pc + 1 + 1 + 1, q := [] }, ?_, ?_⟩
      · constructor <;> first | rfl | (simp [operandBytes, BitVec.add_assoc])
      · simp [seqAbsIdxWrite, -BitVec.toNat_add, BitVec.add_assoc, runSequence, finish, MicroOp.isFree, runOp_full hp,
      MicroOp.request, MicroOp.effect, SeqState.peek, SeqState.operand1, SeqState.operand2, SeqState.operandWord,
      SeqState.zpPointer, LatchPair.addr, LatchPair.indexedAddr, LatchPair.hi, LatchPair.lo, LatchPair.setLo,
      LatchPair.setHi, IndexReg.get, zeroPageAddr, applyRead, hc, SeqState.poke, StoreFn.value_congr st]
  case izy =>
    cases hc : carries (st.peek (zeroPageAddr st.operand1)) st.y with
    | false =>
      rw [SeqState.zpPointer, ← cat_add_of_not_carries hc]
      simp [-BitVec.toNat_add, SeqState.operand1, SeqState.peek, zeroPageAddr] at hc
      refine ⟨{ st with adl := st.operand1, adh := 0, eal := st.peek (zeroPageAddr st.operand1) + st.y, eah := st.peek (zeroPageAddr (st.operand1 + 1)), pc := st.pc + 1 + 1, q := [] }, ?_, ?_⟩
      · constructor <;> first | rfl | (simp [operandBytes, BitVec.add_assoc])
      · simp [seqIzyWrite, -BitVec.toNat_add, BitVec.add_assoc, runSequence, finish, MicroOp.isFree, runOp_full hp,
      MicroOp.request, MicroOp.effect, SeqState.peek, SeqState.operand1, SeqState.operand2, SeqState.operandWord,
      SeqState.zpPointer, LatchPair.addr, LatchPair.indexedAddr, LatchPair.hi, LatchPair.lo, LatchPair.setLo,
      LatchPair.setHi, IndexReg.get, zeroPageAddr, applyRead, hc, SeqState.poke, StoreFn.value_congr st]
    | true =>
      rw [SeqState.zpPointer, ← cat_add_of_carries hc]
      simp [-BitVec.toNat_add, SeqState.operand1, SeqState.peek, zeroPageAddr] at hc
      refine ⟨{ st with adl := st.operand1, adh := 0, eal := st.peek (zeroPageAddr st.operand1) + st.y, eah := (st.peek (zeroPageAddr (st.operand1 + 1)) + 1), pc := st.pc + 1 + 1, q := [] }, ?_, ?_⟩
      · constructor <;> first | rfl | (simp [operandBytes, BitVec.add_assoc])
      · simp [seqIzyWrite, -BitVec.toNat_add, BitVec.add_assoc, runSequence, finish, MicroOp.isFree, runOp_full hp,
      MicroOp.request, MicroOp.effect, SeqState.peek, SeqState.operand1, SeqState.operand2, SeqState.operandWord,
      SeqState.zpPointer, LatchPair.addr, LatchPair.indexedAddr, LatchPair.hi, LatchPair.lo, LatchPair.setLo,
      LatchPair.setHi, IndexReg.get, zeroPageAddr, applyRead, hc, SeqState.poke, StoreFn.value_congr st]

/-- An rmw-class sequence reads the byte at the net address of R91, writes it back unchanged, then writes the effect
function's result (R184, R187, R190, R194, R197, R200, R209). -/
theorem runSequence_rmw {p : Params} (hp : p.busSize = 65536) {f : Format} {e : RmwFn} {ops : List MicroOp}
    (hs : rmwSequence f e = some ops) {a : Addr} (st : SeqState) (ha : operandAddr f st = some a) :
    ∃ st', Arrived (1 + operandBytes f) st st' ∧
      runSequence p ops st =
        let st1 := st'.poke a (st.peek a)
        let o := e.apply p.decimalMode (st.peek a) st1
        let o2 := e.apply p.decimalMode (st.peek a) (st1.poke a o.v)
        .ok { o2.st with dl := o2.v } := by
  cases f <;> simp only [rmwSequence, reduceCtorEq, Option.some.injEq] at hs <;> subst hs <;>
    simp only [operandAddr, Option.some.injEq] at ha <;> subst ha
  case zp =>
    refine ⟨{ st with adl := st.operand1, adh := 0, dl := st.peek (zeroPageAddr st.operand1), pc := st.pc + 1 + 1, q := [] }, ?_, ?_⟩
    · constructor <;> first | rfl | (simp [operandBytes, BitVec.add_assoc])
    · simp [seqZpRmw, -BitVec.toNat_add, BitVec.add_assoc, runSequence, finish, MicroOp.isFree, runOp_full hp,
      MicroOp.request, MicroOp.effect, SeqState.peek, SeqState.operand1, SeqState.operand2, SeqState.operandWord,
      SeqState.zpPointer, LatchPair.addr, LatchPair.indexedAddr, LatchPair.hi, LatchPair.lo, LatchPair.setLo,
      LatchPair.setHi, IndexReg.get, zeroPageAddr, applyRead, SeqState.poke]
  case zpx =>
    refine ⟨{ st with adl := st.operand1 + st.x, adh := 0, dl := st.peek (zeroPageAddr (st.operand1 + st.x)), pc := st.pc + 1 + 1, q := [] }, ?_, ?_⟩
    · constructor <;> first | rfl | (simp [operandBytes, BitVec.add_assoc])
    · simp [seqZpIdxRmw, -BitVec.toNat_add, BitVec.add_assoc, runSequence, finish, MicroOp.isFree, runOp_full hp,
      MicroOp.request, MicroOp.effect, SeqState.peek, SeqState.operand1, SeqState.operand2, SeqState.operandWord,
      SeqState.zpPointer, LatchPair.addr, LatchPair.indexedAddr, LatchPair.hi, LatchPair.lo, LatchPair.setLo,
      LatchPair.setHi, IndexReg.get, zeroPageAddr, applyRead, SeqState.poke]
  case zpy =>
    refine ⟨{ st with adl := st.operand1 + st.y, adh := 0, dl := st.peek (zeroPageAddr (st.operand1 + st.y)), pc := st.pc + 1 + 1, q := [] }, ?_, ?_⟩
    · constructor <;> first | rfl | (simp [operandBytes, BitVec.add_assoc])
    · simp [seqZpIdxRmw, -BitVec.toNat_add, BitVec.add_assoc, runSequence, finish, MicroOp.isFree, runOp_full hp,
      MicroOp.request, MicroOp.effect, SeqState.peek, SeqState.operand1, SeqState.operand2, SeqState.operandWord,
      SeqState.zpPointer, LatchPair.addr, LatchPair.indexedAddr, LatchPair.hi, LatchPair.lo, LatchPair.setLo,
      LatchPair.setHi, IndexReg.get, zeroPageAddr, applyRead, SeqState.poke]
  case abs =>
    refine ⟨{ st with adl := st.operand1, adh := st.operand2, dl := st.peek st.operandWord, pc := st.pc + 1 + 1 + 1, q := [] }, ?_, ?_⟩
    · constructor <;> first | rfl | (simp [operandBytes, BitVec.add_assoc])
    · simp [seqAbsRmw, -BitVec.toNat_add, BitVec.add_assoc, runSequence, finish, MicroOp.isFree, runOp_full hp,
      MicroOp.request, MicroOp.effect, SeqState.peek, SeqState.operand1, SeqState.operand2, SeqState.operandWord,
      SeqState.zpPointer, LatchPair.addr, LatchPair.indexedAddr, LatchPair.hi, LatchPair.lo, LatchPair.setLo,
      LatchPair.setHi, IndexReg.get, zeroPageAddr, applyRead, SeqState.poke]
  case izx =>
    refine ⟨{ st with adl := st.operand1 + st.x, adh := 0, eal := st.peek (zeroPageAddr (st.operand1 + st.x)), eah := st.peek (zeroPageAddr (st.operand1 + st.x + 1)), dl := st.peek (st.zpPointer (st.operand1 + st.x)), pc := st.pc + 1 + 1, q := [] }, ?_, ?_⟩
    · constructor <;> first | rfl | (simp [operandBytes, BitVec.add_assoc])
    · simp [seqIzxRmw, -BitVec.toNat_add, BitVec.add_assoc, runSequence, finish, MicroOp.isFree, runOp_full hp,
      MicroOp.request, MicroOp.effect, SeqState.peek, SeqState.operand1, SeqState.operand2, SeqState.operandWord,
      SeqState.zpPointer, LatchPair.addr, LatchPair.indexedAddr, LatchPair.hi, LatchPair.lo, LatchPair.setLo,
      LatchPair.setHi, IndexReg.get, zeroPageAddr, applyRead, SeqState.poke]
  case abx =>
    cases hc : carries (st.operand1) st.x with
    | false =>
      rw [SeqState.operandWord, ← cat_add_of_not_carries hc]
      simp [-BitVec.toNat_add, SeqState.operand1, SeqState.peek, zeroPageAddr] at hc
      refine ⟨{ st with adl := st.operand1 + st.x, adh := st.operand2, dl := st.peek (cat (st.operand2) (st.operand1 + st.x)), pc := st.pc + 1 + 1 + 1, q := [] }, ?_, ?_⟩
      · constructor <;> first | rfl | (simp [operandBytes, BitVec.add_assoc])
      · simp [seqAbsIdxRmw, -BitVec.toNat_add, BitVec.add_assoc, runSequence, finish, MicroOp.isFree, runOp_full hp,
      MicroOp.request, MicroOp.effect, SeqState.peek, SeqState.operand1, SeqState.operand2, SeqState.operandWord,
      SeqState.zpPointer, LatchPair.addr, LatchPair.indexedAddr, LatchPair.hi, LatchPair.lo, LatchPair.setLo,
      LatchPair.setHi, IndexReg.get, zeroPageAddr, applyRead, hc, SeqState.poke]
    | true =>
      rw [SeqState.operandWord, ← cat_add_of_carries hc]
      simp [-BitVec.toNat_add, SeqState.operand1, SeqState.peek, zeroPageAddr] at hc
      refine ⟨{ st with adl := st.operand1 + st.x, adh := (st.operand2 + 1), dl := st.peek (cat ((st.operand2 + 1)) (st.operand1 + st.x)), pc := st.pc + 1 + 1 + 1, q := [] }, ?_, ?_⟩
      · constructor <;> first | rfl | (simp [operandBytes, BitVec.add_assoc])
      · simp [seqAbsIdxRmw, -BitVec.toNat_add, BitVec.add_assoc, runSequence, finish, MicroOp.isFree, runOp_full hp,
      MicroOp.request, MicroOp.effect, SeqState.peek, SeqState.operand1, SeqState.operand2, SeqState.operandWord,
      SeqState.zpPointer, LatchPair.addr, LatchPair.indexedAddr, LatchPair.hi, LatchPair.lo, LatchPair.setLo,
      LatchPair.setHi, IndexReg.get, zeroPageAddr, applyRead, hc, SeqState.poke]
  case aby =>
    cases hc : carries (st.operand1) st.y with
    | false =>
      rw [SeqState.operandWord, ← cat_add_of_not_carries hc]
      simp [-BitVec.toNat_add, SeqState.operand1, SeqState.peek, zeroPageAddr] at hc
      refine ⟨{ st with adl := st.operand1 + st.y, adh := st.operand2, dl := st.peek (cat (st.operand2) (st.operand1 + st.y)), pc := st.pc + 1 + 1 + 1, q := [] }, ?_, ?_⟩
      · constructor <;> first | rfl | (simp [operandBytes, BitVec.add_assoc])
      · simp [seqAbsIdxRmw, -BitVec.toNat_add, BitVec.add_assoc, runSequence, finish, MicroOp.isFree, runOp_full hp,
      MicroOp.request, MicroOp.effect, SeqState.peek, SeqState.operand1, SeqState.operand2, SeqState.operandWord,
      SeqState.zpPointer, LatchPair.addr, LatchPair.indexedAddr, LatchPair.hi, LatchPair.lo, LatchPair.setLo,
      LatchPair.setHi, IndexReg.get, zeroPageAddr, applyRead, hc, SeqState.poke]
    | true =>
      rw [SeqState.operandWord, ← cat_add_of_carries hc]
      simp [-BitVec.toNat_add, SeqState.operand1, SeqState.peek, zeroPageAddr] at hc
      refine ⟨{ st with adl := st.operand1 + st.y, adh := (st.operand2 + 1), dl := st.peek (cat ((st.operand2 + 1)) (st.operand1 + st.y)), pc := st.pc + 1 + 1 + 1, q := [] }, ?_, ?_⟩
      · constructor <;> first | rfl | (simp [operandBytes, BitVec.add_assoc])
      · simp [seqAbsIdxRmw, -BitVec.toNat_add, BitVec.add_assoc, runSequence, finish, MicroOp.isFree, runOp_full hp,
      MicroOp.request, MicroOp.effect, SeqState.peek, SeqState.operand1, SeqState.operand2, SeqState.operandWord,
      SeqState.zpPointer, LatchPair.addr, LatchPair.indexedAddr, LatchPair.hi, LatchPair.lo, LatchPair.setLo,
      LatchPair.setHi, IndexReg.get, zeroPageAddr, applyRead, hc, SeqState.poke]
  case izy =>
    cases hc : carries (st.peek (zeroPageAddr st.operand1)) st.y with
    | false =>
      rw [SeqState.zpPointer, ← cat_add_of_not_carries hc]
      simp [-BitVec.toNat_add, SeqState.operand1, SeqState.peek, zeroPageAddr] at hc
      refine ⟨{ st with adl := st.operand1, adh := 0, eal := st.peek (zeroPageAddr st.operand1) + st.y, eah := st.peek (zeroPageAddr (st.operand1 + 1)), dl := st.peek (cat (st.peek (zeroPageAddr (st.operand1 + 1))) (st.peek (zeroPageAddr st.operand1) + st.y)), pc := st.pc + 1 + 1, q := [] }, ?_, ?_⟩
      · constructor <;> first | rfl | (simp [operandBytes, BitVec.add_assoc])
      · simp [seqIzyRmw, -BitVec.toNat_add, BitVec.add_assoc, runSequence, finish, MicroOp.isFree, runOp_full hp,
      MicroOp.request, MicroOp.effect, SeqState.peek, SeqState.operand1, SeqState.operand2, SeqState.operandWord,
      SeqState.zpPointer, LatchPair.addr, LatchPair.indexedAddr, LatchPair.hi, LatchPair.lo, LatchPair.setLo,
      LatchPair.setHi, IndexReg.get, zeroPageAddr, applyRead, hc, SeqState.poke]
    | true =>
      rw [SeqState.zpPointer, ← cat_add_of_carries hc]
      simp [-BitVec.toNat_add, SeqState.operand1, SeqState.peek, zeroPageAddr] at hc
      refine ⟨{ st with adl := st.operand1, adh := 0, eal := st.peek (zeroPageAddr st.operand1) + st.y, eah := (st.peek (zeroPageAddr (st.operand1 + 1)) + 1), dl := st.peek (cat ((st.peek (zeroPageAddr (st.operand1 + 1)) + 1)) (st.peek (zeroPageAddr st.operand1) + st.y)), pc := st.pc + 1 + 1, q := [] }, ?_, ?_⟩
      · constructor <;> first | rfl | (simp [operandBytes, BitVec.add_assoc])
      · simp [seqIzyRmw, -BitVec.toNat_add, BitVec.add_assoc, runSequence, finish, MicroOp.isFree, runOp_full hp,
      MicroOp.request, MicroOp.effect, SeqState.peek, SeqState.operand1, SeqState.operand2, SeqState.operandWord,
      SeqState.zpPointer, LatchPair.addr, LatchPair.indexedAddr, LatchPair.hi, LatchPair.lo, LatchPair.setLo,
      LatchPair.setHi, IndexReg.get, zeroPageAddr, applyRead, hc, SeqState.poke]


/-- R180. -/
theorem runSequence_imp {p : Params} (hp : p.busSize = 65536) (e : ImpFn) (st : SeqState) :
    runSequence p (seqImp e) st = .ok (e.apply { st with pc := st.pc + 1, q := [] }) := by
  simp [seqImp, runSequence, finish, MicroOp.isFree, runOp_full hp, MicroOp.request, MicroOp.effect, applyImp]

/-- Both ways a taken branch ends up at its target (R202, R308). -/
theorem branch_fixup (pc : Addr) (d : Byte) :
    (hiByte (pc + sext16 d) = hiByte pc → cat (hiByte pc) (loByte (pc + sext16 d)) = pc + sext16 d) ∧
    (hiByte (pc + sext16 d) ≠ hiByte pc →
      cat (if d.msb then hiByte pc - 1 else hiByte pc + 1) (loByte (pc + sext16 d)) = pc + sext16 d) := by
  refine ⟨fun h => by rw [← h, cat_hiByte_loByte], fun h => ?_⟩
  have key : (if d.msb then hiByte pc - 1 else hiByte pc + 1) = hiByte (pc + sext16 d) := by
    have h' : (hiByte (pc + sext16 d)).toNat ≠ (hiByte pc).toNat := fun e => h (BitVec.eq_of_toNat_eq e)
    have h1 : BitVec.toNat (1 : Byte) = 1 := rfl
    have := d.isLt; have := pc.isLt
    have hs : (sext16 d).toNat = if d.msb then 65280 + d.toNat else d.toNat := by
      rw [sext16, BitVec.toNat_signExtend]
      split <;> simp <;> omega
    apply BitVec.eq_of_toNat_eq
    simp only [hiByte_toNat, BitVec.toNat_add, hs] at h' ⊢
    cases hm : d.msb
    · have hd : d.toNat < 128 := by
        rw [BitVec.msb_eq_decide] at hm; simpa using hm
      simp only [hm, Bool.false_eq_true, if_false, hiByte_toNat, BitVec.toNat_add, h1] at h' ⊢
      omega
    · have hd : 128 ≤ d.toNat := by
        rw [BitVec.msb_eq_decide] at hm; simpa using hm
      simp only [hm, if_true, hiByte_toNat, BitVec.toNat_sub, h1] at h' ⊢
      omega
  rw [key, cat_hiByte_loByte]

/-- R202, R308: a branch goes to its target or to the next instruction. -/
theorem runSequence_branch {p : Params} (hp : p.busSize = 65536) (c : Cond) (st : SeqState) :
    runSequence p (seqBranch c) st = .ok { st with
      dl := st.operand1
      pc := if c.holds st then st.branchTarget else st.pc + 2
      q := [] } := by
  have hh : ∀ st' : SeqState, st'.p = st.p → c.holds st' = c.holds st := by
    intro st' h; cases c <;> simp [Cond.holds, h]
  have key := branch_fixup (st.pc + 2#16) st.operand1
  cases hc : c.holds st
  · simp [seqBranch, runSequence, finish, MicroOp.isFree, runOp_full hp, MicroOp.request, MicroOp.effect, hh, hc,
      SeqState.operand1, SeqState.peek, BitVec.add_assoc, -BitVec.toNat_add]
  · simp [SeqState.operand1, SeqState.peek, -BitVec.toNat_add, BitVec.add_assoc] at key
    by_cases hq : hiByte (st.pc + 2#16 + sext16 st.operand1) = hiByte (st.pc + 2#16)
    · simp [SeqState.operand1, SeqState.peek, -BitVec.toNat_add, BitVec.add_assoc] at hq
      simp [seqBranch, runSequence, finish, MicroOp.isFree, runOp_full hp, MicroOp.request, MicroOp.effect, hh, hc,
        SeqState.operand1, SeqState.peek, BitVec.add_assoc, -BitVec.toNat_add, SeqState.dropNext, hq,
        SeqState.branchTarget, key.1 hq]
    · simp [SeqState.operand1, SeqState.peek, -BitVec.toNat_add, BitVec.add_assoc] at hq
      simp [seqBranch, runSequence, finish, MicroOp.isFree, runOp_full hp, MicroOp.request, MicroOp.effect, hh, hc,
        SeqState.operand1, SeqState.peek, BitVec.add_assoc, -BitVec.toNat_add, SeqState.dropNext, hq,
        SeqState.branchTarget]
      exact key.2 hq

/-- R191. -/
theorem runSequence_jmp {p : Params} (hp : p.busSize = 65536) (st : SeqState) :
    runSequence p seqJmp st = .ok { st with
      adl := st.operand1, adh := st.operand2, pc := st.operandWord, q := [] } := by
  simp [seqJmp, runSequence, finish, MicroOp.isFree, runOp_full hp, MicroOp.request, MicroOp.effect,
    SeqState.operandWord, SeqState.operand1, SeqState.operand2, SeqState.peek, BitVec.add_assoc, -BitVec.toNat_add]

/-- R201. -/
theorem runSequence_jmpInd {p : Params} (hp : p.busSize = 65536) (st : SeqState) :
    runSequence p seqJmpInd st = .ok { st with
      adl := st.operand1, adh := st.operand2, eal := loByte st.jmpIndTarget, eah := hiByte st.jmpIndTarget,
      pc := st.jmpIndTarget, q := [] } := by
  simp [seqJmpInd, runSequence, finish, MicroOp.isFree, runOp_full hp, MicroOp.request, MicroOp.effect,
    SeqState.jmpIndTarget, SeqState.operandWord, SeqState.operand1, SeqState.operand2, SeqState.peek, BitVec.add_assoc,
    -BitVec.toNat_add]

/-- R203. -/
theorem runSequence_push {p : Params} (hp : p.busSize = 65536) (v : PushVal) (st : SeqState)
    (hv : v = .a ∨ v = .statusBreak) :
    runSequence p (seqPush v) st = .ok ({ st with
      pc := st.pc + 1, s := st.s - 1, q := [] }.poke (stackAddr st.s) (v.value st)) := by
  rcases hv with rfl | rfl <;>
    simp [seqPush, runSequence, finish, MicroOp.isFree, runOp_full hp, MicroOp.request, MicroOp.effect, applyImp,
      PushVal.value, SeqState.poke]

/-- R204. -/
theorem runSequence_pull {p : Params} (hp : p.busSize = 65536) (l : LoadFn) (st : SeqState) :
    runSequence p (seqPull l) st = .ok (l.apply (st.peek (stackAddr (st.s + 1))) { st with
      dl := st.peek (stackAddr (st.s + 1)), pc := st.pc + 1, s := st.s + 1, q := [] }) := by
  simp [seqPull, runSequence, finish, MicroOp.isFree, runOp_full hp, MicroOp.request, MicroOp.effect, applyImp,
    SeqState.peek, -BitVec.toNat_add]

/-- R205: the high byte of the target is read after the two pushes. -/
theorem runSequence_jsr {p : Params} (hp : p.busSize = 65536) (st : SeqState) :
    runSequence p seqJsr st =
      let st1 := (st.poke (stackAddr st.s) (hiByte (st.pc + 2))).poke (stackAddr (st.s - 1)) (loByte (st.pc + 2))
      .ok { st1 with
        adl := st.operand1
        adh := st1.peek (st.pc + 2)
        s := st.s - 1 - 1
        pc := cat (st1.peek (st.pc + 2)) st.operand1
        q := [] } := by
  simp [seqJsr, runSequence, finish, MicroOp.isFree, runOp_full hp, MicroOp.request, MicroOp.effect, PushVal.value,
    SeqState.poke, SeqState.operand1, SeqState.peek, BitVec.add_assoc, -BitVec.toNat_add]

/-- R206. -/
theorem runSequence_rts {p : Params} (hp : p.busSize = 65536) (st : SeqState) :
    runSequence p seqRts st = .ok { st with
      dl := st.peek (stackAddr (st.s + 1 + 1))
      s := st.s + 1 + 1
      pc := cat (st.peek (stackAddr (st.s + 1 + 1))) (st.peek (stackAddr (st.s + 1))) + 1
      q := [] } := by
  simp [seqRts, runSequence, finish, MicroOp.isFree, runOp_full hp, MicroOp.request, MicroOp.effect, applyImp,
    SeqState.peek, LoadFn.apply, -BitVec.toNat_add]

/-- R207. -/
theorem runSequence_rti {p : Params} (hp : p.busSize = 65536) (st : SeqState) :
    runSequence p seqRti st = .ok { st with
      dl := st.peek (stackAddr (st.s + 1 + 1 + 1))
      s := st.s + 1 + 1 + 1
      p := pulledStatus st.p (st.peek (stackAddr (st.s + 1)))
      pc := cat (st.peek (stackAddr (st.s + 1 + 1 + 1))) (st.peek (stackAddr (st.s + 1 + 1)))
      q := [] } := by
  simp [seqRti, runSequence, finish, MicroOp.isFree, runOp_full hp, MicroOp.request, MicroOp.effect, applyImp,
    SeqState.peek, LoadFn.apply, SeqState.setP, -BitVec.toNat_add]

/-- The three pushes of `BRK` and of an interrupt (R208, R414): `PCH`, `PCL`, a status byte. -/
def SeqState.pushFrame (st : SeqState) (ret : Addr) (status : Byte) : SeqState :=
  ((st.poke (stackAddr st.s) (hiByte ret)).poke (stackAddr (st.s - 1)) (loByte ret)).poke (stackAddr (st.s - 1 - 1)) status

/-- No vector lies on the stack page. -/
theorem SeqState.peek_pushFrame_high (st : SeqState) (ret : Addr) (status : Byte) (b : Addr) (h : 512 ≤ b.toNat) :
    (st.pushFrame ret status).peek b = st.peek b := by
  have key : ∀ c : Byte, b ≠ stackAddr c := by
    rintro c rfl; have := c.isLt; rw [stackAddr_toNat] at h; omega
  simp only [SeqState.pushFrame, SeqState.peek_poke, if_neg (key _)]

/-- R208: the free tail is still to come. -/
theorem runSequence_brk {p : Params} (hp : p.busSize = 65536) (st : SeqState) :
    runSequence p seqBrk st =
      let st1 := st.pushFrame (st.pc + 2) (pushedBreak st.p)
      .ok { st1 with
        p := setFlag st.p .i true
        adl := st1.peek irqVector
        adh := st1.peek (irqVector + 1)
        s := st.s - 1 - 1 - 1
        pc := st.pc + 2
        q := [.setPcAd] } := by
  simp [seqBrk, runSequence, finish, MicroOp.isFree, runOp_full hp, MicroOp.request, MicroOp.effect, PushVal.value,
    SeqState.poke, SeqState.peek, SeqState.pushFrame, SeqState.setFlag, SeqState.setP, BitVec.add_assoc, -BitVec.toNat_add]

/-- R414: the free tail is still to come. -/
theorem runSequence_interrupt {p : Params} (hp : p.busSize = 65536) (v : Addr) (st : SeqState) :
    runSequence p (interruptSequence v) st =
      let st1 := st.pushFrame st.pc (pushedIrq st.p)
      .ok { st1 with
        p := setFlag st.p .i true
        adl := st1.peek v
        adh := st1.peek (v + 1)
        s := st.s - 1 - 1 - 1
        q := [.setPcAd] } := by
  simp [interruptSequence, runSequence, finish, MicroOp.isFree, runOp_full hp, MicroOp.request, MicroOp.effect,
    applyImp, PushVal.value, SeqState.poke, SeqState.peek, SeqState.pushFrame, SeqState.setFlag, SeqState.setP,
    BitVec.add_assoc, -BitVec.toNat_add]

/-- R415: the free tail is still to come; nothing is stored. -/
theorem runSequence_reset {p : Params} (hp : p.busSize = 65536) (st : SeqState) :
    runSequence p resetSequence st = .ok { st with
      p := setFlag st.p .i true
      adl := st.peek resetVector
      adh := st.peek (resetVector + 1)
      s := st.s - 1 - 1 - 1
      q := [.setPcAd] } := by
  simp [resetSequence, runSequence, finish, MicroOp.isFree, runOp_full hp, MicroOp.request, MicroOp.effect,
    applyImp, SeqState.peek, SeqState.setFlag, SeqState.setP, BitVec.add_assoc, -BitVec.toNat_add]

end Sys2Proof.Machine
end

