-- ==== Sys2Proof/Laws/Exec.lean ====
section
/-! SUPPORT. Every meaning runs the sequence its table row names, and what that leaves in the terms of Safety.lean: one lemma
per access class. -/

namespace Sys2Proof.Machine

/-- Two ways of writing the machine down agree on all 256 instructions: the meanings of the families, and the sequence
`Decode` computes from a row's class, format and mnemonic (R173). -/
theorem exec_eq_rowSequence (i : Instr) (s : State) :
    ∃ ops, rowSequence i.row = some ops ∧ exec i s = runInstr ops s := by
  cases i <;> exact ⟨_, rfl, rfl⟩

/-- Every instruction is selected by its own byte (R90, R96). -/
theorem decodeOpcode_opcode (i : Instr) : decodeOpcode i.opcode = i := by cases i <;> rfl

/-- The meaning of an instruction whose row names a known sequence. -/
theorem exec_of_rowSequence {i : Instr} {ops : List MicroOp} (h : rowSequence i.row = some ops) (s : State) :
    exec i s = runInstr ops s := by
  obtain ⟨ops', h', he⟩ := exec_eq_rowSequence i s
  rw [h] at h'
  cases h'
  exact he

/-- On a full bus a meaning whose sequence runs to `st` answers `st`. -/
theorem exec_next {i : Instr} {ops : List MicroOp} {s : State} {st : SeqState} (h : rowSequence i.row = some ops)
    (hr : runSequence s.params ops s.seq = .ok st) : exec i s = .next (s.setSeq st) := by
  rw [exec_of_rowSequence h, runInstr, hr]; rfl

/-- `setNZ` as a list of flags (R32). -/
theorem setNZ_eq_withFlags (p v : Byte) : setNZ p v = withFlags p [(.n, v.msb), (.z, v == 0)] := by
  apply status_ext; intro g
  simp only [withFlags, List.foldl, getFlag_setFlag, getFlag_setNZ]
  cases g <;> simp

/-- A flag of `withFlags` is the last value listed for it, or what it was. -/
theorem getFlag_withFlags (p : Byte) (l : List (Flag × Bool)) (g : Flag) :
    getFlag (withFlags p l) g = l.foldl (fun b c => if g = c.1 then c.2 else b) (getFlag p g) := by
  induction l generalizing p with
  | nil => rfl
  | cons c l ih => simp only [withFlags, List.foldl] at *; rw [ih, getFlag_setFlag]

/-- `Compare` as a list of flags (R269). -/
theorem compareP_eq_withFlags (p v m : Byte) : compareP p v m = withFlags p
    [(.n, (v - m).msb), (.z, decide (v = m)), (.c, decide (m.toNat ≤ v.toNat))] := by
  have hz : (v - m == 0) = decide (v = m) := by
    rw [Bool.eq_iff_iff]; simp only [beq_iff_eq, decide_eq_true_eq]
    constructor
    · intro h; bv_omega
    · rintro rfl; simp
  apply status_ext; intro g
  simp only [compareP, withFlags, List.foldl, getFlag_setFlag, getFlag_setNZ]
  cases g <;> simp
  simpa using hz

@[simp] theorem SeqState.peekAfter_nil (st : SeqState) (b : Addr) : st.peekAfter [] b = st.peek b := rfl

theorem SeqState.peekAfter_one (st : SeqState) (a b : Addr) (v : Byte) :
    st.peekAfter [(a, v)] b = if b = a then v else st.peek b := rfl

/-- The three pushes as the list of stores an entry makes (R416). -/
theorem SeqState.peek_pushFrame (st : SeqState) (ret : Addr) (status : Byte) (b : Addr) :
    (st.pushFrame ret status).peek b = st.peekAfter (st.entryStores ret status) b := by
  simp only [SeqState.pushFrame, SeqState.peek_poke, SeqState.entryStores, SeqState.peekAfter, List.foldl, byte_sub_two]

/-- What a read effect computes depends on the registers and on how many free values were drawn. -/
theorem ReadFn.apply_congr (mode : DecimalMode) (e : ReadFn) (m : Byte) {st st' : SeqState} (ha : st.a = st'.a)
    (hx : st.x = st'.x) (hy : st.y = st'.y) (hs : st.s = st'.s) (hp : st.p = st'.p)
    (hf : st.freeCount = st'.freeCount) :
    let o := e.apply mode m st
    let o' := e.apply mode m st'
    o.a = o'.a ∧ o.x = o'.x ∧ o.y = o'.y ∧ o.s = o'.s ∧ o.p = o'.p ∧ o.freeCount = o'.freeCount := by
  cases st; cases st'
  simp only at ha hx hy hs hp hf
  subst ha hx hy hs hp hf
  cases e <;> first | exact ⟨rfl, rfl, rfl, rfl, rfl, rfl⟩ |
    (simp only [ReadFn.apply]; split <;> exact ⟨rfl, rfl, rfl, rfl, rfl, rfl⟩)

/-- The number of bytes in the table is one more than the operand bytes of the format, `BRK` apart (R91, R97). -/
theorem after_eq {i : Instr} (h : BitVec.ofNat 16 i.bytes = 1 + operandBytes i.format) (s : State) :
    s.after i = s.seq.pc + (1 + operandBytes i.format) := by
  rw [State.after, h]

/-- A listed form is coded as it says and decodes to the read sequence of its format. -/
def Form.reads (c : Form) (e : ReadFn) : Bool :=
  decide (decodeOpcode c.opcode = c.instr) && decide (c.instr.opcode = c.opcode) && decide (c.instr.format = c.format)
    && decide (rowSequence c.instr.row = readSequence c.format e) && (readSequence c.format e).isSome
    && decide (BitVec.ofNat 16 c.instr.bytes = 1 + operandBytes c.format)

/-- The same for a store. -/
def Form.stores (c : Form) (v : StoreFn) : Bool :=
  decide (decodeOpcode c.opcode = c.instr) && decide (c.instr.opcode = c.opcode) && decide (c.instr.format = c.format)
    && decide (rowSequence c.instr.row = writeSequence c.format v) && (writeSequence c.format v).isSome
    && decide (BitVec.ofNat 16 c.instr.bytes = 1 + operandBytes c.format)

/-- The same for a read-modify-write. -/
def Form.modifies (c : Form) (e : RmwFn) : Bool :=
  decide (decodeOpcode c.opcode = c.instr) && decide (c.instr.opcode = c.opcode) && decide (c.instr.format = c.format)
    && decide (rowSequence c.instr.row = rmwSequence c.format e) && (rmwSequence c.format e).isSome
    && decide (BitVec.ofNat 16 c.instr.bytes = 1 + operandBytes c.format)

/-- The same for an implied or accumulator form. -/
def Form.implied (c : Form) (e : ImpFn) : Bool :=
  decide (decodeOpcode c.opcode = c.instr) && decide (c.instr.opcode = c.opcode) && decide (c.instr.format = c.format)
    && decide (rowSequence c.instr.row = some (seqImp e)) && decide (BitVec.ofNat 16 c.instr.bytes = 1)

theorem operandAddr_isSome_of_read {f : Format} {e : ReadFn} (h : (readSequence f e).isSome = true) (st : SeqState) :
    ∃ a, operandAddr f st = some a := by
  cases f <;> simp [readSequence] at h <;> exact ⟨_, rfl⟩

theorem operandAddr_isSome_of_write {f : Format} {e : StoreFn} (h : (writeSequence f e).isSome = true) (st : SeqState) :
    ∃ a, operandAddr f st = some a := by
  cases f <;> simp [writeSequence] at h <;> exact ⟨_, rfl⟩

theorem operandAddr_isSome_of_rmw {f : Format} {e : RmwFn} (h : (rmwSequence f e).isSome = true) (st : SeqState) :
    ∃ a, operandAddr f st = some a := by
  cases f <;> simp [rmwSequence] at h <;> exact ⟨_, rfl⟩

/-- Read-class forms: what the effect function leaves, and nothing else. `ARR` in decimal mode draws free values, hence
the last premise. -/
theorem readsTo_of {forms : List Form} {s : State} {r : Byte → Regs} (e : ReadFn)
    (h : forms.all (·.reads e) = true) (hb : FullBus s)
    (hf : ∀ m, (e.apply s.params.decimalMode m s.seq).freeCount = s.seq.freeCount)
    (hr : ∀ m, (e.apply s.params.decimalMode m s.seq).regs = r m) : ReadsTo forms s r := by
  obtain rfl : (fun m => (e.apply s.params.decimalMode m s.seq).regs) = r := funext hr
  intro c hc
  have hr := List.all_eq_true.mp h c hc
  simp only [Form.reads, Bool.and_eq_true, decide_eq_true_eq] at hr
  obtain ⟨⟨⟨⟨⟨h1, h2⟩, h3⟩, h4⟩, h5⟩, h6⟩ := hr
  refine ⟨⟨h1, h2, h3⟩, ?_⟩
  obtain ⟨ops, hops⟩ := Option.isSome_iff_exists.mp h5
  obtain ⟨a, ha⟩ := operandAddr_isSome_of_read h5 s.seq
  refine ⟨a, ha, ?_⟩
  obtain ⟨st', hst, hrun⟩ := runSequence_read hb hops s.seq ha
  obtain ⟨ka, kx, ky, ks, kp, kf⟩ := ReadFn.apply_congr s.params.decimalMode e (s.seq.peek a) hst.a hst.x hst.y hst.s
    hst.p hst.freeCount
  refine ⟨_, exec_next (h4.trans hops) hrun, ?_, ?_, ?_, ?_⟩
  · rw [after_eq (h3 ▸ h6)]
    simp only [SeqState.regs, State.setSeq_seq, ka, kx, ky, ks, kp, ReadFn.apply_pc, hst.pc, h3]
  · intro b; exact SeqState.peek_congr (by simp [hst.mem]) b
  · simp [hst.q]
  · simp [Undisturbed, hst.irqLine, hst.nmiLine, hst.nmiPrev, hst.nmiPending, kf, hf]

/-- Write-class forms: one store of the value, no register but `PC`. -/
theorem storesTo_of {forms : List Form} (v : StoreFn) (h : forms.all (·.stores v) = true) {s : State} (hb : FullBus s) :
    StoresTo forms s (v.value s.seq) := by
  intro c hc
  have hr := List.all_eq_true.mp h c hc
  simp only [Form.stores, Bool.and_eq_true, decide_eq_true_eq] at hr
  obtain ⟨⟨⟨⟨⟨h1, h2⟩, h3⟩, h4⟩, h5⟩, h6⟩ := hr
  refine ⟨⟨h1, h2, h3⟩, ?_⟩
  obtain ⟨ops, hops⟩ := Option.isSome_iff_exists.mp h5
  obtain ⟨a, ha⟩ := operandAddr_isSome_of_write h5 s.seq
  refine ⟨a, ha, ?_⟩
  obtain ⟨st', hst, hrun⟩ := runSequence_write hb hops s.seq ha
  refine ⟨_, exec_next (h4.trans hops) hrun, ?_, ?_, ?_, ?_⟩
  · rw [after_eq (h3 ▸ h6)]
    simp [SeqState.regs, hst.a, hst.x, hst.y, hst.s, hst.p, hst.pc, h3]
  · intro b
    rw [State.setSeq_seq, SeqState.peek_poke, SeqState.peekAfter_one, SeqState.peek_congr hst.mem]
  · simp [hst.q]
  · simp [Undisturbed, hst.irqLine, hst.nmiLine, hst.nmiPrev, hst.nmiPending, hst.freeCount]

/-- Rmw-class forms: the byte is replaced by the effect function's result, whose register effects are applied once; of the
two stores the second is the one memory keeps. -/
theorem modifies_of {forms : List Form} {s : State} {f : Byte → Byte} {r : Byte → Regs} (e : RmwFn)
    (h : forms.all (·.modifies e) = true) (hb : FullBus s)
    (hv : ∀ m, (e.apply s.params.decimalMode m s.seq).v = f m)
    (hr : ∀ m, (e.apply s.params.decimalMode m s.seq).st.regs = r m) : Modifies forms s f r := by
  obtain rfl : (fun m => (e.apply s.params.decimalMode m s.seq).v) = f := funext hv
  obtain rfl : (fun m => (e.apply s.params.decimalMode m s.seq).st.regs) = r := funext hr
  intro c hc
  have hr := List.all_eq_true.mp h c hc
  simp only [Form.modifies, Bool.and_eq_true, decide_eq_true_eq] at hr
  obtain ⟨⟨⟨⟨⟨h1, h2⟩, h3⟩, h4⟩, h5⟩, h6⟩ := hr
  refine ⟨⟨h1, h2, h3⟩, ?_⟩
  obtain ⟨ops, hops⟩ := Option.isSome_iff_exists.mp h5
  obtain ⟨a, ha⟩ := operandAddr_isSome_of_rmw h5 s.seq
  refine ⟨a, ha, ?_⟩
  obtain ⟨st', hst, hrun⟩ := runSequence_rmw hb hops s.seq ha
  obtain ⟨kv, -, -⟩ := RmwFn.apply_congr s.params.decimalMode e (s.seq.peek a)
    (st := st'.poke a (s.seq.peek a)) (st' := s.seq) hst.a hst.p
  obtain ⟨-, ka, kp⟩ := RmwFn.apply_congr s.params.decimalMode e (s.seq.peek a)
    (st := (st'.poke a (s.seq.peek a)).poke a
      (e.apply s.params.decimalMode (s.seq.peek a) (st'.poke a (s.seq.peek a))).v) (st' := s.seq) hst.a hst.p
  refine ⟨_, exec_next (h4.trans hops) hrun, ?_, ?_, ?_, ?_⟩
  · rw [after_eq (h3 ▸ h6)]
    simp [SeqState.regs, ka, kp, hst.x, hst.y, hst.s, hst.pc, h3]
  · intro b
    rw [State.setSeq_seq, SeqState.peekAfter_one]
    refine (SeqState.peek_congr (st' := (st'.poke a (s.seq.peek a)).poke a
      (e.apply s.params.decimalMode (s.seq.peek a) (st'.poke a (s.seq.peek a))).v) (by simp) b).trans ?_
    rw [SeqState.peek_poke, SeqState.peek_poke, kv, SeqState.peek_congr hst.mem]
    split <;> rfl
  · simp [hst.q]
  · simp [Undisturbed, hst.irqLine, hst.nmiLine, hst.nmiPrev, hst.nmiPending, hst.freeCount]

/-- Implied and accumulator forms: what the effect function leaves, and nothing else. -/
theorem registers_of {forms : List Form} {s : State} {r : Regs} (e : ImpFn) (h : forms.all (·.implied e) = true)
    (hb : FullBus s) (hr : (e.apply s.seq).regs = r) : Registers forms s r := by
  subst hr
  intro c hc
  have hr := List.all_eq_true.mp h c hc
  simp only [Form.implied, Bool.and_eq_true, decide_eq_true_eq] at hr
  obtain ⟨⟨⟨⟨h1, h2⟩, h3⟩, h4⟩, h5⟩ := hr
  refine ⟨⟨h1, h2, h3⟩, ?_⟩
  refine ⟨_, exec_next h4 (runSequence_imp hb e s.seq), ?_, ?_, ?_, ?_⟩
  · rw [State.after, h5]
    cases e <;> rfl
  · intro b; exact SeqState.peek_congr (by simp) b
  · simp
  · simp [Undisturbed]

/-- A form of one of the fixed sequences, once its run is known. -/
theorem completes_of {i : Instr} {ops : List MicroOp} {s : State} {st : SeqState} {r : Regs} {stores : List (Addr × Byte)}
    (h : rowSequence i.row = some ops) (hr : runSequence s.params ops s.seq = .ok st) (h1 : st.regs = r)
    (h2 : ∀ b, st.peek b = s.seq.peekAfter stores b) (h3 : st.q = [])
    (h4 : st.irqLine = s.seq.irqLine ∧ st.nmiLine = s.seq.nmiLine ∧ st.nmiPrev = s.seq.nmiPrev ∧
      st.nmiPending = s.seq.nmiPending ∧ st.freeCount = s.seq.freeCount) : Completes i s r stores :=
  ⟨_, exec_next h hr, h1, h2, h3, rfl, rfl, rfl, h4⟩

end Sys2Proof.Machine
end

