-- ==== Sys2Proof/Laws/Arithmetic.lean ====
section
/-! SUPPORT. The additions of 43_arithmetic_logic.md in terms of exact integers: carry and overflow as ranges. -/

namespace Sys2Proof.Machine

theorem bit_le_one (c : Bool) : bit c ≤ 1 := by cases c <;> simp [bit]

/-- The overflow test of R260 looks at three sign bits. -/
theorem overflow_msb (a m r : Byte) :
    ((a ^^^ r) &&& (m ^^^ r) &&& 0x80 != 0) = ((a.msb ^^ r.msb) && (m.msb ^^ r.msb)) := by
  have key : ∀ x : Byte, (x &&& 0x80 != 0) = x.msb := by decide
  rw [key]; simp [BitVec.msb_xor]

theorem msb_eq (a : Byte) : a.msb = decide (128 ≤ a.toNat) := by
  rw [BitVec.msb_eq_decide]

/-- `P.V` of a binary addition: the exact signed sum is outside `[-128, 127]` (R260). -/
theorem overflow_iff (a m : Byte) (c : Bool) :
    ((a ^^^ BitVec.ofNat 8 (a.toNat + m.toNat + bit c)) &&& (m ^^^ BitVec.ofNat 8 (a.toNat + m.toNat + bit c)) &&& 0x80 != 0) =
      decide (a.toInt + m.toInt + bit c < -128 ∨ 127 < a.toInt + m.toInt + bit c) := by
  rw [overflow_msb, msb_eq, msb_eq, msb_eq, BitVec.toNat_ofNat]
  have ha := a.isLt; have hm := m.isLt; have hc := bit_le_one c
  rw [BitVec.toInt_eq_toNat_cond, BitVec.toInt_eq_toNat_cond]
  rw [Bool.eq_iff_iff]
  simp only [Bool.and_eq_true, bne_iff_ne, ne_eq, decide_eq_decide, decide_eq_true_eq]
  split <;> split <;> omega

/-- The status byte of a binary addition, flag by flag (R260). -/
theorem addBinary_p (p a m : Byte) (c : Bool) :
    (addBinary p a m c).p = withFlags p
      [(.n, (BitVec.ofNat 8 (a.toNat + m.toNat + bit c) : Byte).msb),
       (.v, decide (a.toInt + m.toInt + bit c < -128 ∨ 127 < a.toInt + m.toInt + bit c)),
       (.z, (BitVec.ofNat 8 (a.toNat + m.toNat + bit c) : Byte) == 0),
       (.c, decide (255 < a.toNat + m.toNat + bit c))] := by
  unfold addBinary
  simp only [overflow_iff]
  apply status_ext; intro g
  rw [getFlag_withFlags, getFlag_setNZ]
  cases g <;> simp [getFlag_setFlag]

theorem compl_toNat (m : Byte) : (m ^^^ 0xFF).toNat = 255 - m.toNat := by
  revert m; decide

theorem compl_toInt (m : Byte) : (m ^^^ 0xFF).toInt = -1 - m.toInt := by
  revert m; decide

/-- The result of a binary subtraction is the exact difference with the borrow, reduced (R264). -/
theorem subBinary_a (p a m : Byte) (c : Bool) :
    (addBinary p a (m ^^^ 0xFF) c).a = BitVec.ofInt 8 ((a.toNat : Int) - m.toNat - (1 - bit c)) := by
  have ha := a.isLt; have hm := m.isLt; have hc := bit_le_one c
  unfold addBinary
  simp only [compl_toNat]
  apply BitVec.eq_of_toNat_eq
  rw [BitVec.toNat_ofNat, BitVec.toNat_ofInt]
  omega

/-- The status byte of a binary subtraction, flag by flag (R264, R282). -/
theorem subBinary_p (p a m : Byte) (c : Bool) :
    (addBinary p a (m ^^^ 0xFF) c).p = withFlags p
      [(.n, (BitVec.ofInt 8 ((a.toNat : Int) - m.toNat - (1 - bit c)) : Byte).msb),
       (.v, decide (a.toInt - m.toInt - (1 - bit c) < -128 ∨ 127 < a.toInt - m.toInt - (1 - bit c))),
       (.z, (BitVec.ofInt 8 ((a.toNat : Int) - m.toNat - (1 - bit c)) : Byte) == 0),
       (.c, decide (0 ≤ (a.toNat : Int) - m.toNat - (1 - bit c)))] := by
  have hv : (BitVec.ofNat 8 (a.toNat + (m ^^^ 0xFF).toNat + bit c) : Byte) =
      BitVec.ofInt 8 ((a.toNat : Int) - m.toNat - (1 - bit c)) := subBinary_a p a m c
  have ha := a.isLt; have hm := m.isLt; have hc := bit_le_one c
  have h1 : (255 < a.toNat + (m ^^^ 0xFF).toNat + bit c) ↔ (0 ≤ (a.toNat : Int) - m.toNat - (1 - bit c)) := by
    rw [compl_toNat]; omega
  have h2 : a.toInt + (m ^^^ 0xFF).toInt + bit c = a.toInt - m.toInt - (1 - bit c) := by
    rw [compl_toInt]; omega
  rw [addBinary_p, hv, h2]
  simp only [h1]

theorem decimalOn_of_binary {mode : DecimalMode} {p : Byte} (h : mode = .binaryOnly ∨ getFlag p .d = false) :
    decimalOn mode p = false := by
  rcases h with rfl | h
  · rfl
  · cases mode <;> simp [decimalOn, h]

theorem decimalOn_of_decimal {mode : DecimalMode} {p : Byte} (h : mode = .nmos) (h' : getFlag p .d = true) :
    decimalOn mode p = true := by
  subst h; simp [decimalOn, h']

end Sys2Proof.Machine
end

