-- ==== Sys2Proof/Laws/Clock.lean ====
section
/-! SUPPORT. `Clock()` and running a queue to its end are one thing: what the NMI sample and the free tail leave, the frame
of one operation, and the number of `Clock()` calls a queue takes. -/

namespace Sys2Proof.Machine

/-! ### Before the cycle -/

@[simp] theorem SeqState.sampleNmi_q (st : SeqState) : st.sampleNmi.q = st.q := rfl
@[simp] theorem SeqState.sampleNmi_nmiLine (st : SeqState) : st.sampleNmi.nmiLine = st.nmiLine := rfl
@[simp] theorem SeqState.sampleNmi_nmiPrev (st : SeqState) : st.sampleNmi.nmiPrev = st.nmiLine := rfl

/-- A second sample of an unchanged line finds nothing (R411). -/
theorem SeqState.sampleNmi_of_seen {st : SeqState} (h : st.nmiPrev = st.nmiLine) : st.sampleNmi = st := by
  cases st
  simp only at h
  subst h
  simp [SeqState.sampleNmi]

theorem SeqState.ready_nil {st : SeqState} (h : st.q = []) : st.ready = st.sampleNmi := by
  simp [SeqState.ready, SeqState.drainFree, h, drainFreeOps]

/-- The free tail runs before anything else (R172, R451). -/
theorem SeqState.ready_setPcAd {st : SeqState} (h : st.q = [.setPcAd]) :
    st.ready = { st.sampleNmi with pc := cat st.adh st.adl, q := [] } := by
  simp [SeqState.ready, SeqState.drainFree, SeqState.sampleNmi, h, drainFreeOps]

theorem SeqState.ready_cons {st : SeqState} {op : MicroOp} {rest : List MicroOp} (h : st.q = op :: rest)
    (hf : op.isFree = false) : st.ready = st.sampleNmi := by
  cases op <;> first | contradiction | simp [SeqState.ready, SeqState.drainFree, h, drainFreeOps]

/-- What draining leaves alone. -/
theorem drainFreeOps_frame (l : List MicroOp) (st : SeqState) :
    drainFreeOps l st = { st with pc := (drainFreeOps l st).pc, q := (drainFreeOps l st).q } := by
  induction l generalizing st with
  | nil => rfl
  | cons op l ih => cases op <;> first | rfl | (simp only [drainFreeOps]; rw [ih])

/-- `ready` changes `PC`, the queue and the NMI bits at most. -/
theorem SeqState.ready_frame (st : SeqState) :
    st.ready = { st.sampleNmi with pc := st.ready.pc, q := st.ready.q } := drainFreeOps_frame _ _

@[simp] theorem SeqState.ready_a (st : SeqState) : st.ready.a = st.a := by rw [st.ready_frame]; rfl
@[simp] theorem SeqState.ready_x (st : SeqState) : st.ready.x = st.x := by rw [st.ready_frame]; rfl
@[simp] theorem SeqState.ready_y (st : SeqState) : st.ready.y = st.y := by rw [st.ready_frame]; rfl
@[simp] theorem SeqState.ready_s (st : SeqState) : st.ready.s = st.s := by rw [st.ready_frame]; rfl
@[simp] theorem SeqState.ready_p (st : SeqState) : st.ready.p = st.p := by rw [st.ready_frame]; rfl
@[simp] theorem SeqState.ready_mem (st : SeqState) : st.ready.mem = st.mem := by rw [st.ready_frame]; rfl
@[simp] theorem SeqState.ready_irqLine (st : SeqState) : st.ready.irqLine = st.irqLine := by rw [st.ready_frame]; rfl
@[simp] theorem SeqState.ready_nmiLine (st : SeqState) : st.ready.nmiLine = st.nmiLine := by rw [st.ready_frame]; rfl
@[simp] theorem SeqState.ready_nmiPrev (st : SeqState) : st.ready.nmiPrev = st.nmiLine := by rw [st.ready_frame]; rfl
@[simp] theorem SeqState.ready_freeCount (st : SeqState) : st.ready.freeCount = st.freeCount := by
  rw [st.ready_frame]; rfl

/-- After `ready` the queue is empty or begins with an operation that takes a cycle. -/
theorem SeqState.ready_q (st : SeqState) : st.ready.q = [] ∨ ∃ op rest, st.ready.q = op :: rest ∧ op.isFree = false := by
  have key : ∀ (l : List MicroOp) (st : SeqState), st.q = l → (drainFreeOps l st).q = [] ∨
      ∃ op rest, (drainFreeOps l st).q = op :: rest ∧ op.isFree = false := by
    intro l
    induction l with
    | nil => intro st h; exact .inl h
    | cons op l ih => intro st h; cases op <;> first | exact ih _ rfl | exact .inr ⟨_, _, h, rfl⟩
  exact key _ _ rfl

/-! ### One operation -/

/-- What one operation does to the queue left after it: nothing, one entry dropped, or all of it (R11, R177). -/
theorem MicroOp.effect_q (mode : DecimalMode) (op : MicroOp) (d : Byte) (st : SeqState) :
    (op.effect mode d st).q = st.q ∨ (op.effect mode d st).q = st.q.drop 1 ∨ (op.effect mode d st).q = [] := by
  cases op <;> simp only [MicroOp.effect]
  case dummyPc e => cases e <;> simp [applyImp]
  case read l e => cases e <;> simp [applyRead]
  case brOffset c => split <;> simp
  case brTake => split <;> simp
  case readIdx l r e => cases l <;> (split <;> simp [LatchPair.setLo])
  case fixRead l e => cases l <;> simp [LatchPair.setHi]
  case dummyIdx l r => cases l <;> (split <;> simp [LatchPair.setLo, LatchPair.setHi])
  case vecLo => simp
  all_goals simp

/-- No operation touches the interrupt inputs or their hidden state (R37). -/
theorem MicroOp.effect_lines (mode : DecimalMode) (op : MicroOp) (d : Byte) (st : SeqState) :
    (op.effect mode d st).irqLine = st.irqLine ∧ (op.effect mode d st).nmiLine = st.nmiLine ∧
      (op.effect mode d st).nmiPrev = st.nmiPrev ∧ (op.effect mode d st).nmiPending = st.nmiPending := by
  cases op <;> simp only [MicroOp.effect]
  case dummyPc e => cases e <;> simp [applyImp]
  case read l e => cases e <;> simp [applyRead]
  case brOffset c => split <;> simp
  case brTake => split <;> simp
  case readIdx l r e => cases l <;> (split <;> simp [LatchPair.setLo])
  case fixRead l e => cases l <;> simp [LatchPair.setHi]
  case dummyIdx l r => cases l <;> (split <;> simp [LatchPair.setLo, LatchPair.setHi])
  all_goals simp

/-- No effect writes memory; only a write access does (R175). -/
theorem MicroOp.effect_mem (mode : DecimalMode) (op : MicroOp) (d : Byte) (st : SeqState) :
    (op.effect mode d st).mem = st.mem := by
  cases op <;> simp only [MicroOp.effect]
  case dummyPc e => cases e <;> simp [applyImp]
  case read l e => cases e <;> simp [applyRead]
  case brOffset c => split <;> simp
  case brTake => split <;> simp
  case readIdx l r e => cases l <;> (split <;> simp [LatchPair.setLo])
  case fixRead l e => cases l <;> simp [LatchPair.setHi]
  case dummyIdx l r => cases l <;> (split <;> simp [LatchPair.setLo, LatchPair.setHi])
  all_goals simp

/-- No effect writes bits 4 and 5 of `P` (R33). -/
theorem ImpFn.apply_bits45 (e : ImpFn) (st : SeqState) : (e.apply st).p &&& 0x30#8 = st.p &&& 0x30#8 := by
  cases e <;> simp [ImpFn.apply, setFlag_bits45]

theorem ReadFn.apply_bits45 (mode : DecimalMode) (e : ReadFn) (m : Byte) (st : SeqState) :
    (e.apply mode m st).p &&& 0x30#8 = st.p &&& 0x30#8 := by
  cases e <;> simp [ReadFn.apply, setFlag_bits45]
  split <;> simp [arrDecimal, arrBinary, setFlag_bits45]

theorem RmwFn.apply_bits45 (mode : DecimalMode) (e : RmwFn) (m : Byte) (st : SeqState) :
    (e.apply mode m st).st.p &&& 0x30#8 = st.p &&& 0x30#8 := by
  cases e <;> simp [RmwFn.apply, setFlag_bits45]

theorem LoadFn.apply_bits45 (l : LoadFn) (m : Byte) (st : SeqState) :
    (l.apply m st).p &&& 0x30#8 = st.p &&& 0x30#8 := by
  cases l <;> simp [LoadFn.apply]

theorem MicroOp.effect_bits45 (mode : DecimalMode) (op : MicroOp) (d : Byte) (st : SeqState) :
    (op.effect mode d st).p &&& 0x30#8 = st.p &&& 0x30#8 := by
  cases op <;> simp only [MicroOp.effect]
  case dummyPc e => cases e <;> simp [applyImp, ImpFn.apply_bits45]
  case imm e => simp [ReadFn.apply_bits45]
  case read l e => cases e <;> simp [applyRead, ReadFn.apply_bits45]
  case brOffset c => split <;> rfl
  case brTake => split <;> rfl
  case readIdx l r e => cases l <;> (split <;> simp [LatchPair.setLo, ReadFn.apply_bits45])
  case fixRead l e => cases l <;> simp [LatchPair.setHi, ReadFn.apply_bits45]
  case dummyIdx l r => cases l <;> (split <;> simp [LatchPair.setLo, LatchPair.setHi])
  case rmwFinal l e => simp [RmwFn.apply_bits45]
  case pull l => simp [LoadFn.apply_bits45]
  case pullInc l => simp [LoadFn.apply_bits45]
  case vecLo v => simp [setFlag_bits45]

/-- Everything one operation can do: on success its effect applied to the state, or to the state with one byte stored. -/
theorem runOp_cases {p : Params} {op : MicroOp} {st st' : SeqState} (h : runOp p op st = .ok st') :
    (∃ d, st' = op.effect p.decimalMode d st) ∨ ∃ a v, st' = op.effect p.decimalMode v (st.poke a v) := by
  unfold runOp at h
  split at h
  · cases h; exact .inl ⟨_, rfl⟩
  · split at h
    · cases h; exact .inl ⟨_, rfl⟩
    · cases h
  · rename_i a v _
    split at h
    · rename_i st1 h1
      simp only [SeqState.memWrite] at h1
      split at h1
      · cases h1; cases h; exact .inr ⟨a, v, rfl⟩
      · cases h1
    · cases h

/-- The frame of one operation, memory's canonical form included. -/
theorem runOp_frame {p : Params} {op : MicroOp} {st st' : SeqState} (h : runOp p op st = .ok st') :
    (st'.q = st.q ∨ st'.q = st.q.drop 1 ∨ st'.q = []) ∧
      (st'.irqLine = st.irqLine ∧ st'.nmiLine = st.nmiLine ∧ st'.nmiPrev = st.nmiPrev ∧
        st'.nmiPending = st.nmiPending) ∧
      (st.mem.wf = true → st'.mem.wf = true) ∧ st'.p &&& 0x30#8 = st.p &&& 0x30#8 := by
  rcases runOp_cases h with ⟨d, rfl⟩ | ⟨a, v, rfl⟩
  · exact ⟨op.effect_q .., op.effect_lines .., fun hw => by rwa [op.effect_mem], op.effect_bits45 ..⟩
  · exact ⟨op.effect_q _ _ (st.poke a v), op.effect_lines _ _ (st.poke a v),
      fun hw => by rw [op.effect_mem]; exact Memory.wf_write_addr a v hw, op.effect_bits45 _ _ (st.poke a v)⟩

/-- On a full bus an operation never fails (R62). -/
theorem runOp_ok {p : Params} (hp : p.busSize = 65536) (op : MicroOp) (st : SeqState) : ∃ st', runOp p op st = .ok st' := by
  rw [runOp_full hp]
  split <;> exact ⟨_, rfl⟩

/-! ### Queues -/

/-- The free operation stands nowhere but last. -/
def FreeLast (q : List MicroOp) : Prop := ∀ op ∈ q.dropLast, op.isFree = false

theorem FreeLast.tail {op : MicroOp} {q : List MicroOp} (h : FreeLast (op :: q)) : FreeLast q := by
  intro o ho
  refine h o ?_
  cases q with
  | nil => simp at ho
  | cons a l => rw [List.dropLast_cons_of_ne_nil (by simp)]; exact List.mem_cons_of_mem _ ho

theorem FreeLast.of_free {op : MicroOp} {q : List MicroOp} (h : FreeLast (op :: q)) (hf : op.isFree = true) :
    op :: q = [.setPcAd] := by
  cases q with
  | nil => cases op <;> first | rfl | cases hf
  | cons a l =>
    have := h op (by rw [List.dropLast_cons_of_ne_nil (by simp)]; simp)
    rw [this] at hf; cases hf

/-- What is left of a queue after an operation. -/
theorem FreeLast.shrink {q q' : List MicroOp} (h : FreeLast q) (hq : q' = q ∨ q' = q.drop 1 ∨ q' = []) :
    FreeLast q' ∧ q'.length ≤ q.length := by
  rcases hq with rfl | rfl | rfl
  · exact ⟨h, Nat.le_refl _⟩
  · cases q with
    | nil => exact ⟨h, by simp⟩
    | cons op q => exact ⟨h.tail, by simp⟩
  · exact ⟨by simp [FreeLast], by simp⟩

theorem QueueShape.nil : QueueShape [] := by simp [QueueShape]

theorem QueueShape.free {q : List MicroOp} (h : QueueShape q) : FreeLast q := h.2.2

theorem QueueShape.tail {op : MicroOp} {q : List MicroOp} (h : QueueShape (op :: q)) : QueueShape q :=
  ⟨by have := h.1; simp at this; omega, fun o ho => h.2.1 o (by simp [ho]), h.free.tail⟩

/-- A free operation in a well-shaped queue is its last. -/
theorem QueueShape.of_free {op : MicroOp} {q : List MicroOp} (h : QueueShape (op :: q)) (hf : op.isFree = true) :
    op :: q = [.setPcAd] := h.free.of_free hf

/-- What is left of a well-shaped queue after an operation. -/
theorem QueueShape.shrink {q q' : List MicroOp} (h : QueueShape q) (hq : q' = q ∨ q' = q.drop 1 ∨ q' = []) :
    QueueShape q' ∧ q'.length ≤ q.length := by
  rcases hq with rfl | rfl | rfl
  · exact ⟨h, Nat.le_refl _⟩
  · cases q with
    | nil => exact ⟨h, by simp⟩
    | cons op q => exact ⟨h.tail, by simp⟩
  · exact ⟨.nil, by simp⟩

/-- The end of a run is well shaped. -/
theorem QueueShape.of_end {q : List MicroOp} (h : q = [] ∨ q = [.setPcAd]) : QueueShape q := by
  rcases h with rfl | rfl
  · exact .nil
  · unfold QueueShape; decide

/-- `ready` leaves a well-shaped queue well shaped. -/
theorem QueueShape.ready {st : SeqState} (h : QueueShape st.q) : QueueShape st.ready.q := by
  cases hq : st.q with
  | nil => rw [SeqState.ready_nil hq]; exact h
  | cons op rest =>
    cases hf : op.isFree with
    | false => rw [SeqState.ready_cons hq hf]; exact h
    | true => rw [SeqState.ready_setPcAd (hq.trans ((hq ▸ h).of_free hf))]; exact .nil

/-- The shape of a decoded sequence, as a test. -/
def decodedShape (b : Byte) : Bool :=
  match rowSequence (decodeOpcode b).row with
  | some (.opc :: ops) => decide (ops.length ≤ 7) && ops.all (fun op => decide (op ≠ .opc)) &&
      ops.dropLast.all (fun op => !op.isFree) && decide (ops ≠ [])
  | _ => false

/-- The decoded sequence of a byte: the opcode cycle and a well-shaped rest (R173); it is what the instruction's meaning
runs. -/
theorem decodeSequence_cases (b : Byte) : ∃ ops, decodeSequence b = .ok (.opc :: ops) ∧
    rowSequence (decodeOpcode b).row = some (.opc :: ops) ∧ QueueShape ops ∧ ops ≠ [] ∧ ops.length ≤ 7 := by
  have key : ∀ b, decodedShape b = true := by decide
  have h := key b
  unfold decodedShape at h
  split at h
  · rename_i ops hops
    simp only [Bool.and_eq_true, decide_eq_true_eq, List.all_eq_true, Bool.not_eq_true'] at h
    obtain ⟨⟨⟨h1, h2⟩, h3⟩, h4⟩ := h
    exact ⟨ops, by rw [decodeSequence, hops], hops, ⟨by omega, h2, h3⟩, h4, h1⟩
  · cases h

/-! ### Running a queue to its end -/

/-- What a finished run leaves, and on a full bus it never fails. -/
theorem finish_frame {p : Params} : ∀ (n : Nat) {st st' : SeqState}, finish p n st = .ok st' →
    (st'.irqLine = st.irqLine ∧ st'.nmiLine = st.nmiLine ∧ st'.nmiPrev = st.nmiPrev ∧
        st'.nmiPending = st.nmiPending) ∧
      (st.mem.wf = true → st'.mem.wf = true) ∧ st'.p &&& 0x30#8 = st.p &&& 0x30#8 := by
  intro n
  induction n with
  | zero => intro st st' h; cases h; exact ⟨⟨rfl, rfl, rfl, rfl⟩, id, rfl⟩
  | succ n ih =>
    intro st st' h
    unfold finish at h
    split at h
    · cases h; exact ⟨⟨rfl, rfl, rfl, rfl⟩, id, rfl⟩
    · split at h
      · cases h; exact ⟨⟨rfl, rfl, rfl, rfl⟩, id, rfl⟩
      · split at h
        · rename_i st1 h1
          obtain ⟨-, ⟨a1, a2, a3, a4⟩, a5, a6⟩ := runOp_frame h1
          obtain ⟨⟨b1, b2, b3, b4⟩, b5, b6⟩ := ih h
          exact ⟨⟨b1.trans a1, b2.trans a2, b3.trans a3, b4.trans a4⟩, fun hw => b5 (a5 hw), b6.trans a6⟩
        · cases h

/-- A run with enough fuel ends at an empty queue or at the free tail. -/
theorem finish_end {p : Params} : ∀ (n : Nat) {st st' : SeqState}, FreeLast st.q → st.q.length ≤ n →
    finish p n st = .ok st' → st'.q = [] ∨ st'.q = [.setPcAd] := by
  intro n
  induction n with
  | zero =>
    intro st st' hs hn h; cases h
    exact .inl (List.length_eq_zero_iff.mp (by omega))
  | succ n ih =>
    intro st st' hs hn h
    unfold finish at h
    split at h
    · rename_i hq; cases h; exact .inl hq
    · rename_i op rest hq
      rw [hq] at hs hn
      split at h
      · rename_i hf; cases h; exact .inr (hq.trans (hs.of_free hf))
      · split at h
        · rename_i st1 h1
          obtain ⟨hq1, -⟩ := runOp_frame h1
          obtain ⟨hs1, hl⟩ := hs.tail.shrink hq1
          exact ih hs1 (by simp at hn; omega) h
        · cases h

theorem finish_ok {p : Params} (hp : p.busSize = 65536) : ∀ (n : Nat) (st : SeqState), ∃ st', finish p n st = .ok st' := by
  intro n
  induction n with
  | zero => intro st; exact ⟨_, rfl⟩
  | succ n ih =>
    intro st
    unfold finish
    split
    · exact ⟨_, rfl⟩
    · rename_i op rest _
      split
      · exact ⟨_, rfl⟩
      · obtain ⟨st1, h1⟩ := runOp_ok hp op { st with q := rest }
        rw [h1]
        exact ih st1

/-- One cycle of a queue that has something to run (R171). -/
theorem SeqState.clock_cons {p : Params} {st : SeqState} {op : MicroOp} {rest : List MicroOp} (h : st.q = op :: rest)
    (hf : op.isFree = false) : st.clock p = runOp p op { st.sampleNmi with q := rest } := by
  simp [SeqState.clock, SeqState.ready_cons h hf, SeqState.refill, SeqState.popRun, h]

/-- One cycle at an instruction boundary with no interrupt due: the opcode fetch (R171). -/
theorem SeqState.clock_fetch {p : Params} (hp : p.busSize = 65536) {st : SeqState} {ops : List MicroOp}
    (h : st.ready.q = []) (hp' : st.ready.poll = .opcode)
    (hd : decodeSequence (st.peek st.ready.pc) = .ok (.opc :: ops)) :
    st.clock p = .ok { st.ready with pc := st.ready.pc + 1, q := ops } := by
  have e : st.ready.peek st.ready.pc = st.peek st.ready.pc := SeqState.peek_congr st.ready_mem _
  simp [SeqState.clock, SeqState.refill, h, SeqState.dispatch, hp', SeqState.memRead_full hp, e, hd, SeqState.popRun,
    runOp_full hp, MicroOp.request, MicroOp.effect]

/-- Running a queue to its end is some number of `Clock()` calls, at most one for each of its operations. -/
theorem finish_eq_clocks {p : Params} : ∀ (n : Nat) {st st' : SeqState}, QueueShape st.q → st.nmiPrev = st.nmiLine →
    finish p n st = .ok st' → ∃ k, k ≤ n ∧ st.clocks p k = .ok st' := by
  intro n
  induction n with
  | zero => intro st st' hs hl h; cases h; exact ⟨0, Nat.le_refl _, rfl⟩
  | succ n ih =>
    intro st st' hs hl h
    unfold finish at h
    split at h
    · cases h; exact ⟨0, Nat.zero_le _, rfl⟩
    · rename_i op rest hq
      split at h
      · cases h; exact ⟨0, Nat.zero_le _, rfl⟩
      · rename_i hf
        split at h
        · rename_i st1 h1
          obtain ⟨hq1, ⟨-, a2, a3, -⟩, -, -⟩ := runOp_frame h1
          rw [hq] at hs
          obtain ⟨k, hk, hc⟩ := ih (hs.tail.shrink hq1).1 (by rw [a2, a3]; exact hl) h
          refine ⟨k + 1, by omega, ?_⟩
          rw [SeqState.clocks, SeqState.clock_cons hq (by simpa using hf), SeqState.sampleNmi_of_seen hl, h1]
          exact hc
        · cases h

theorem finish_cons {p : Params} (n : Nat) {st st1 : SeqState} {op : MicroOp} {rest : List MicroOp}
    (h : st.q = op :: rest) (hf : op.isFree = false) (h1 : runOp p op { st with q := rest } = .ok st1) :
    finish p (n + 1) st = finish p n st1 := by
  rw [finish]; simp [h, hf, h1]

/-- The same from the start of a sequence: `r` is what filling the queue leaves. -/
theorem refill_finish {p : Params} (hp : p.busSize = 65536) {st r : SeqState} (n : Nat) {op : MicroOp}
    {rest : List MicroOp} (hr : st.ready.refill p = .ok r) (hq : r.q = op :: rest) (hf : op.isFree = false)
    (hs : QueueShape rest) (hl : r.nmiPrev = r.nmiLine) :
    ∃ k st', 1 ≤ k ∧ k ≤ n + 1 ∧ finish p (n + 1) r = .ok st' ∧ st.clocks p k = .ok st' := by
  obtain ⟨st1, h1⟩ := runOp_ok hp op { r with q := rest }
  obtain ⟨st', h'⟩ := finish_ok hp n st1
  obtain ⟨hq1, ⟨-, a2, a3, -⟩, -, -⟩ := runOp_frame h1
  obtain ⟨k, hk, hc⟩ := finish_eq_clocks n (hs.shrink hq1).1 (by rw [a2, a3]; exact hl) h'
  refine ⟨k + 1, st', by omega, by omega, (finish_cons n hq hf h1).trans h', ?_⟩
  rw [SeqState.clocks, SeqState.clock, hr]
  simp only [SeqState.popRun, hq, h1]
  exact hc

/-- What filling an empty queue puts there: an interrupt's sequence or a decoded one; `nmiPending` is cleared or kept. -/
theorem refill_cases {p : Params} {st r : SeqState} (h : st.refill p = .ok r) :
    (r = st ∧ st.q ≠ []) ∨ st.q = [] ∧ ∃ b,
      (∃ v, r = { st with nmiPending := b, q := interruptSequence v }) ∨
      ∃ ops, r = { st with nmiPending := b, q := .opc :: ops } ∧ QueueShape ops ∧ ops.length ≤ 7 := by
  unfold SeqState.refill at h
  split at h
  · rename_i hq
    refine .inr ⟨hq, ?_⟩
    unfold SeqState.dispatch at h
    split at h
    · cases h; exact ⟨false, .inl ⟨_, rfl⟩⟩
    · cases h; exact ⟨st.nmiPending, .inl ⟨_, rfl⟩⟩
    · split at h
      · rename_i b _
        obtain ⟨ops, h1, -, h2, -, h3⟩ := decodeSequence_cases b
        rw [h1] at h
        cases h
        exact ⟨st.nmiPending, .inr ⟨ops, rfl, h2, h3⟩⟩
      · cases h
  · rename_i hq
    cases h
    exact .inl ⟨rfl, by simp [hq]⟩

theorem SeqState.popRun_cons {p : Params} {st : SeqState} {op : MicroOp} {rest : List MicroOp} (h : st.q = op :: rest) :
    st.popRun p = runOp p op { st with q := rest } := by
  simp [SeqState.popRun, h]

/-- Everything one `Clock()` can do: one operation, run from the ready state with its queue filled. -/
theorem clock_cases {p : Params} {st st' : SeqState} (h : st.clock p = .ok st') :
    ∃ op rest b, runOp p op { st.ready with nmiPending := b, q := rest } = .ok st' ∧
      (QueueShape st.q → QueueShape rest ∧ rest.length ≤ 7) := by
  unfold SeqState.clock at h
  split at h
  · rename_i r hr
    rcases refill_cases hr with ⟨rfl, hq⟩ | ⟨hq, b, ⟨v, rfl⟩ | ⟨ops, rfl, h1, h2⟩⟩
    · obtain h0 | ⟨op, rest, h0, -⟩ := st.ready_q
      · exact absurd h0 hq
      · refine ⟨op, rest, st.ready.nmiPending, ?_, fun hs => ?_⟩
        · simpa [SeqState.popRun, h0] using h
        · have := h0 ▸ hs.ready
          exact ⟨this.tail, by have := this.1; simp at this; omega⟩
    · rw [SeqState.popRun_cons (op := .intT0) rfl] at h
      exact ⟨_, _, b, h, fun _ => by unfold QueueShape; simp [MicroOp.isFree]⟩
    · rw [SeqState.popRun_cons (op := .opc) rfl] at h
      exact ⟨_, _, b, h, fun _ => ⟨h1, h2⟩⟩
  · cases h

/-- The frame of one `Clock()`. -/
theorem clock_frame {p : Params} {st st' : SeqState} (h : st.clock p = .ok st') :
    (QueueShape st.q → QueueShape st'.q ∧ st'.q.length ≤ 7) ∧ (st.mem.wf = true → st'.mem.wf = true) ∧
      st'.p &&& 0x30#8 = st.p &&& 0x30#8 := by
  obtain ⟨op, rest, b, h1, h2⟩ := clock_cases h
  obtain ⟨a1, -, a2, a3⟩ := runOp_frame h1
  refine ⟨fun hs => ?_, fun hw => a2 (by simpa using hw), a3.trans (by simp)⟩
  obtain ⟨b1, b2⟩ := h2 hs
  obtain ⟨c1, c2⟩ := b1.shrink a1
  exact ⟨c1, Nat.le_trans c2 b2⟩

end Sys2Proof.Machine
end

