-- ==== Sys2Proof/Laws/Sim.lean ====
section
/-! SUPPORT. What the operations of SIM change: a settle writes `state` and `on` alone, a pin write one node's drive, and
the network holds together throughout (40_switch_network.md R125 to R131, R140). -/

namespace Sys2Proof.Machine

/-! ### Reading a node or a transistor after a write -/

theorem getD_modify {α : Type} (l : List α) (i j : Nat) (f : α → α) (d : α) :
    (l.modify i f).getD j d = if i = j ∧ j < l.length then f (l.getD j d) else l.getD j d := by
  simp only [List.getD_eq_getElem?_getD, List.getElem?_modify]
  by_cases hj : j < l.length
  · by_cases hi : i = j <;> simp [hi, hj]
  · simp [hj, List.getElem?_eq_none (Nat.le_of_not_lt hj)]

theorem SimState.node_setState (sim : SimState) (i j : Nat) (v : Bool) :
    (sim.setState i v).node j =
      if i = j ∧ j < sim.nodes.length then { sim.node j with state := v } else sim.node j := getD_modify ..

@[simp] theorem SimState.trans_setState (sim : SimState) (i t : Nat) (v : Bool) :
    (sim.setState i v).trans t = sim.trans t := rfl

theorem SimState.trans_setOn (sim : SimState) (t u : Nat) (v : Bool) :
    (sim.setOn t v).trans u =
      if t = u ∧ u < sim.transistors.length then { sim.trans u with on := v } else sim.trans u := getD_modify ..

@[simp] theorem SimState.node_setOn (sim : SimState) (t i : Nat) (v : Bool) : (sim.setOn t v).node i = sim.node i := rfl

/-! ### What a settle leaves alone -/

/-- The circuit, the drives, the bus and the lifecycle are the same. -/
structure SimKept (a b : SimState) : Prop where
  circuit : SameCircuit a b
  drive : SameDrive a b
  mem : b.mem = a.mem
  phase : b.phase = a.phase

theorem SameCircuit.refl (a : SimState) : SameCircuit a a :=
  ⟨rfl, rfl, rfl, rfl, rfl, fun _ => ⟨rfl, rfl, rfl⟩, fun _ => ⟨rfl, rfl, rfl, rfl⟩⟩

theorem SameCircuit.trans {a b c : SimState} (h : SameCircuit a b) (k : SameCircuit b c) : SameCircuit a c := by
  obtain ⟨h1, h2, h3, h4, h5, h6, h7⟩ := h
  obtain ⟨k1, k2, k3, k4, k5, k6, k7⟩ := k
  refine ⟨k1.trans h1, k2.trans h2, k3.trans h3, k4.trans h4, k5.trans h5, fun i => ?_, fun t => ?_⟩
  · obtain ⟨a1, a2, a3⟩ := h6 i
    obtain ⟨b1, b2, b3⟩ := k6 i
    exact ⟨b1.trans a1, b2.trans a2, b3.trans a3⟩
  · obtain ⟨a1, a2, a3, a4⟩ := h7 t
    obtain ⟨b1, b2, b3, b4⟩ := k7 t
    exact ⟨b1.trans a1, b2.trans a2, b3.trans a3, b4.trans a4⟩

theorem SameCircuit.isRail {a b : SimState} (h : SameCircuit a b) (n : Nat) : b.isRail n = a.isRail n := by
  simp only [SimState.isRail, h.1, h.2.1]

theorem SameDrive.refl (a : SimState) : SameDrive a a := fun _ => ⟨rfl, rfl, rfl⟩

theorem SameDrive.trans {a b c : SimState} (h : SameDrive a b) (k : SameDrive b c) : SameDrive a c := fun i =>
  ⟨(k i).1.trans (h i).1, (k i).2.1.trans (h i).2.1, (k i).2.2.trans (h i).2.2⟩

theorem SimKept.refl (a : SimState) : SimKept a a := ⟨.refl a, .refl a, rfl, rfl⟩

theorem SimKept.trans {a b c : SimState} (h : SimKept a b) (k : SimKept b c) : SimKept a c :=
  ⟨h.circuit.trans k.circuit, h.drive.trans k.drive, k.mem.trans h.mem, k.phase.trans h.phase⟩

theorem setState_kept (sim : SimState) (i : Nat) (v : Bool) : SimKept sim (sim.setState i v) := by
  refine ⟨⟨rfl, rfl, rfl, by simp [SimState.setState], rfl, fun j => ?_, fun _ => ⟨rfl, rfl, rfl, rfl⟩⟩, fun j => ?_, rfl, rfl⟩
  all_goals rw [SimState.node_setState]; split <;> exact ⟨rfl, rfl, rfl⟩

theorem setOn_kept (sim : SimState) (t : Nat) (v : Bool) : SimKept sim (sim.setOn t v) := by
  refine ⟨⟨rfl, rfl, rfl, rfl, by simp [SimState.setOn], fun _ => ⟨rfl, rfl, rfl⟩, fun u => ?_⟩, .refl _, rfl, rfl⟩
  rw [SimState.trans_setOn]; split <;> exact ⟨rfl, rfl, rfl, rfl⟩

/-- Turning transistors on or off touches no node. -/
theorem switchAll_nodes (v : Bool) (l : List Nat) (r : Round) :
    (l.foldl (Round.switch v) r).sim.nodes = r.sim.nodes := by
  induction l generalizing r with
  | nil => rfl
  | cons t l ih => rw [List.foldl_cons, ih]; rfl

/-- It sets exactly the listed ones (R131). -/
theorem switchAll_on (v : Bool) (l : List Nat) (r : Round) (u : Nat) (hu : u < r.sim.transistors.length) :
    ((l.foldl (Round.switch v) r).sim.trans u).on = if u ∈ l then v else (r.sim.trans u).on := by
  induction l generalizing r with
  | nil => simp
  | cons t l ih =>
    have hl : (Round.switch v r t).sim.transistors.length = r.sim.transistors.length := by
      simp [Round.switch, SimState.setOn]
    rw [List.foldl_cons, ih _ (by rw [hl]; exact hu)]
    have : ((Round.switch v r t).sim.trans u).on = if t = u then v else (r.sim.trans u).on := by
      show ((r.sim.setOn t v).trans u).on = _
      rw [SimState.trans_setOn]
      by_cases h : t = u <;> simp [h, hu]
    rw [this]
    by_cases h : u = t
    · subst h; simp
    · have h' : ¬ t = u := fun e => h e.symm
      simp [h, h']

theorem switchAll_kept (v : Bool) (l : List Nat) (r : Round) : SimKept r.sim (l.foldl (Round.switch v) r).sim := by
  induction l generalizing r with
  | nil => exact .refl _
  | cons t l ih => exact (setOn_kept r.sim t v).trans (ih (Round.switch v r t))

/-! ### The network holds together -/

/-- The part of `Conductive` that `Setup` fixes. -/
theorem Conductive.of_sameCircuit {a b : SimState} (h : Conductive a) (k : SameCircuit a b)
    (hg : (b.node a.gnd).state = false) (hp : (b.node a.pwr).state = true)
    (ht : ∀ t, t < a.transistors.length → (b.trans t).on = (b.node (a.trans t).gate).state) : Conductive b := by
  obtain ⟨h1, h2, h3, -, -, h6, h7, h8⟩ := h
  have kr := k.isRail
  obtain ⟨k1, k2, -, k4, k5, k6, k7⟩ := k
  refine ⟨by rw [k1, k4]; exact h1, by rw [k2, k4]; exact h2, by rw [k1, k2]; exact h3, by rw [k1]; exact hg,
    by rw [k2]; exact hp, fun t hlt => ?_, fun n t hm => ?_, fun n t hm => ?_⟩
  · rw [k5] at hlt
    obtain ⟨b1, b2, b3, -, b5, b6, b7, b8⟩ := h6 t hlt
    obtain ⟨-, c2, c3, c4⟩ := k7 t
    rw [c2, c3, c4, k4, kr, kr, (k6 _).1, (k6 _).2.1, (k6 _).2.1]
    exact ⟨b1, b2, b3, ht t hlt, b5, b6, b7, b8⟩
  · rw [(k6 n).1] at hm
    rw [k5, (k7 t).2.1]
    exact h7 n t hm
  · rw [(k6 n).2.1] at hm
    rw [k5, (k7 t).2.2.1, (k7 t).2.2.2]
    exact h8 n t hm

theorem updateNode_kept (v : Bool) (r : Round) (g : Nat) : SimKept r.sim (r.updateNode v g).sim := by
  unfold Round.updateNode
  split
  · exact .refl _
  · split
    · exact .refl _
    · exact (setState_kept r.sim g v).trans (switchAll_kept v _ { r with sim := r.sim.setState g v })

theorem updateNode_conductive {v : Bool} {r : Round} {g : Nat} (h : Conductive r.sim) :
    Conductive (r.updateNode v g).sim := by
  have hk := (updateNode_kept v r g).circuit
  unfold Round.updateNode at hk ⊢
  split
  · exact h
  · rename_i hr
    rw [if_neg hr] at hk
    split
    · exact h
    · rename_i hv
      rw [if_neg hv] at hk
      obtain ⟨h1, h2, h3, h4, h5, h6, h7, h8⟩ := h
      simp only [SimState.isRail, Bool.or_eq_true, beq_iff_eq, not_or] at hr
      have hn : ∀ n, ((List.foldl (Round.switch v) { r with sim := r.sim.setState g v } (r.sim.node g).gates).sim.node n)
          = (r.sim.setState g v).node n := by
        intro n; simp only [SimState.node, switchAll_nodes]
      refine Conductive.of_sameCircuit ⟨h1, h2, h3, h4, h5, h6, h7, h8⟩ hk ?_ ?_ ?_
      · rw [hn, SimState.node_setState, if_neg (fun e => hr.1 e.1)]; exact h4
      · rw [hn, SimState.node_setState, if_neg (fun e => hr.2 e.1)]; exact h5
      · intro t ht
        have hs := switchAll_on v (r.sim.node g).gates { r with sim := r.sim.setState g v } t ht
        rw [hn, SimState.node_setState, hs]
        simp only [SimState.trans_setState]
        obtain ⟨b1, -, -, b4, b5, -⟩ := h6 t ht
        by_cases hg : (r.sim.trans t).gate = g
        · rw [if_pos (hg ▸ b5), if_pos ⟨hg.symm, hg ▸ b1⟩]
        · rw [if_neg (fun e => hg (h7 g t e).2), if_neg (fun e => hg e.1.symm)]
          exact b4

theorem foldl_updateNode {v : Bool} (l : List Nat) (r : Round) :
    SimKept r.sim (l.foldl (Round.updateNode v) r).sim ∧
      (Conductive r.sim → Conductive (l.foldl (Round.updateNode v) r).sim) := by
  induction l generalizing r with
  | nil => exact ⟨.refl _, id⟩
  | cons g l ih =>
    obtain ⟨a, b⟩ := ih (r.updateNode v g)
    exact ⟨(updateNode_kept v r g).trans a, fun h => b (updateNode_conductive h)⟩

theorem recalcNode_kept (r : Round) (n : Nat) :
    SimKept r.sim (r.recalcNode n).sim ∧ (Conductive r.sim → Conductive (r.recalcNode n).sim) := by
  unfold Round.recalcNode
  split
  · exact ⟨.refl _, id⟩
  · exact foldl_updateNode _ _

theorem round_kept (sim : SimState) (cur : List Nat) :
    SimKept sim (sim.round cur).sim ∧ (Conductive sim → Conductive (sim.round cur).sim) := by
  have key : ∀ (l : List Nat) (r : Round), SimKept r.sim (l.foldl Round.recalcNode r).sim ∧
      (Conductive r.sim → Conductive (l.foldl Round.recalcNode r).sim) := by
    intro l
    induction l with
    | nil => intro r; exact ⟨.refl _, id⟩
    | cons n l ih =>
      intro r
      obtain ⟨a, b⟩ := recalcNode_kept r n
      obtain ⟨c, d⟩ := ih (r.recalcNode n)
      exact ⟨a.trans c, fun h => d (b h)⟩
  exact key cur { sim := sim, next := [] }

/-- Everything a settle can do, whatever the cap: `state` and `on` change and nothing else, the network still holds
together, and the only failure is the cap's (R125, R126). -/
theorem settleRounds_kept (cap : Nat) (sim : SimState) (cur : List Nat) :
    (∀ sim', SimState.settleRounds cap sim cur = .ok sim' → SimKept sim sim' ∧ (Conductive sim → Conductive sim')) ∧
      ∀ f, SimState.settleRounds cap sim cur = .error f → f = .nonConvergence := by
  induction cap generalizing sim cur with
  | zero =>
    cases cur with
    | nil => exact ⟨fun _ h => by cases h; exact ⟨.refl _, id⟩, fun _ h => by cases h⟩
    | cons n cur => exact ⟨nofun, fun _ h => by cases h; rfl⟩
  | succ cap ih =>
    cases cur with
    | nil => exact ⟨fun _ h => by cases h; exact ⟨.refl _, id⟩, fun _ h => by cases h⟩
    | cons n cur =>
      obtain ⟨a, b⟩ := round_kept sim (n :: cur)
      obtain ⟨c, d⟩ := ih (sim.round (n :: cur)).sim (sim.round (n :: cur)).next
      refine ⟨fun sim' h => ?_, d⟩
      obtain ⟨e, f⟩ := c sim' h
      exact ⟨a.trans e, fun hc => f (b hc)⟩

theorem settle_kept {p : Params} {sim sim' : SimState} {seeds : List Nat} (h : sim.settle p seeds = .ok sim') :
    SimKept sim sim' ∧ (Conductive sim → Conductive sim') := (settleRounds_kept ..).1 sim' h

/-! ### Pins -/

/-- A named node is one the array holds, and carries the name (R142). -/
theorem lookup_node {sim : SimState} {name : String} {n : Nat} (h : sim.lookup name = .ok n) :
    n < sim.nodes.length ∧ (sim.node n).name = some name := by
  unfold SimState.lookup at h
  split at h
  · rename_i i hi
    cases h
    obtain ⟨hlt, hname, -⟩ := List.findIdx?_eq_some_iff_getElem.mp hi
    refine ⟨hlt, ?_⟩
    rw [SimState.node, List.getD_eq_getElem?_getD, List.getElem?_eq_getElem hlt]
    simpa using hname
  · cases h

/-- A name is missing exactly when no node carries it (R142). -/
theorem lookup_error {sim : SimState} {name : String} {f : Fault} (h : sim.lookup name = .error f) : f = .configError := by
  unfold SimState.lookup at h
  split at h <;> cases h
  rfl

theorem lookup_of_missing {sim : SimState} {name : String} (h : ∀ i, (sim.node i).name ≠ some name) :
    sim.lookup name = .error .configError := by
  cases hl : sim.lookup name with
  | ok n => exact absurd (lookup_node hl).2 (h n)
  | error f => rw [lookup_error hl]

/-- A name some node carries is found. -/
theorem lookup_of_named {sim : SimState} {name : String} {i : Nat} (h : (sim.node i).name = some name) :
    ∃ n, sim.lookup name = .ok n := by
  cases hl : sim.lookup name with
  | ok n => exact ⟨n, rfl⟩
  | error f =>
    exfalso
    unfold SimState.lookup at hl
    split at hl
    · cases hl
    · rename_i hn
      rw [List.findIdx?_eq_none_iff] at hn
      by_cases hi : i < sim.nodes.length
      · have e : sim.node i = sim.nodes[i] := by
          rw [SimState.node, List.getD_eq_getElem?_getD, List.getElem?_eq_getElem hi]; rfl
        rw [e] at h
        have := hn _ (List.getElem_mem hi)
        simp [h] at this
      · rw [SimState.node, List.getD_eq_getElem?_getD, List.getElem?_eq_none (by omega)] at h
        cases h

/-- Where a name is found depends on the names alone. -/
theorem SameCircuit.lookup {a b : SimState} (h : SameCircuit a b) (name : String) : b.lookup name = a.lookup name := by
  have e : b.nodes.map (·.name) = a.nodes.map (·.name) := by
    apply List.ext_getElem (by simp [h.2.2.2.1])
    intro i h1 h2
    simp only [List.length_map] at h1 h2
    have := (h.2.2.2.2.2.1 i).2.2
    simp only [SimState.node, List.getD_eq_getElem?_getD, List.getElem?_eq_getElem h1,
      List.getElem?_eq_getElem h2, Option.getD_some] at this
    simpa using this
  have key : ∀ l : List Node, l.findIdx? (fun n => n.name == some name) =
      (l.map (·.name)).findIdx? (fun n => n == some name) := by
    intro l; rw [List.findIdx?_map]; rfl
  simp only [SimState.lookup, key, e]

/-- Nodes of different names are different nodes. -/
theorem lookup_ne {sim : SimState} {a b : String} {n k : Nat} (hn : sim.lookup a = .ok n) (hk : sim.lookup b = .ok k)
    (h : a ≠ b) : n ≠ k := by
  rintro rfl
  have := (lookup_node hn).2.symm.trans (lookup_node hk).2
  exact h (Option.some.inj this)

/-- The drive a level gives (R140). -/
def Node.driven (n : Node) (l : Level) : Node :=
  { n with pullUp := decide (l = .high), pullDown := decide (l = .low), floating := false }

theorem SimState.node_setNode (sim : SimState) (i j : Nat) (l : Level) :
    (sim.setNode i l).node j =
      if i = j ∧ j < sim.nodes.length then (sim.node j).driven l else sim.node j := by
  simp only [SimState.setNode, SimState.node, getD_modify]
  split
  · cases l <;> rfl
  · rfl

@[simp] theorem SimState.trans_setNode (sim : SimState) (i t : Nat) (l : Level) :
    (sim.setNode i l).trans t = sim.trans t := rfl

@[simp] theorem SimState.mem_setNode (sim : SimState) (i : Nat) (l : Level) : (sim.setNode i l).mem = sim.mem := rfl

@[simp] theorem SimState.phase_setNode (sim : SimState) (i : Nat) (l : Level) : (sim.setNode i l).phase = sim.phase := rfl

/-- The external drive of a node is what a level gives (R140). -/
def SimState.Drives (sim : SimState) (n : Nat) (l : Level) : Prop :=
  (sim.node n).pullUp = decide (l = .high) ∧ (sim.node n).pullDown = decide (l = .low) ∧ (sim.node n).floating = false

theorem SameDrive.drives {a b : SimState} (h : SameDrive a b) {n : Nat} {l : Level} (hd : a.Drives n l) : b.Drives n l := by
  obtain ⟨h1, h2, h3⟩ := h n
  exact ⟨h1.trans hd.1, h2.trans hd.2.1, h3.trans hd.2.2⟩

theorem setNode_drives (sim : SimState) {n : Nat} (l : Level) (h : n < sim.nodes.length) : (sim.setNode n l).Drives n l := by
  unfold SimState.Drives
  rw [SimState.node_setNode, if_pos ⟨rfl, h⟩]
  exact ⟨rfl, rfl, rfl⟩

/-- A pin write leaves the drive of every other node (R140). -/
theorem setNode_other (sim : SimState) {n k : Nat} (l : Level) (h : k ≠ n) : (sim.setNode n l).node k = sim.node k := by
  rw [SimState.node_setNode, if_neg (fun e => h e.1.symm)]

theorem setNode_circuit (sim : SimState) (i : Nat) (l : Level) :
    SameCircuit sim (sim.setNode i l) ∧ (Conductive sim → Conductive (sim.setNode i l)) := by
  have hs : ∀ j, ((sim.setNode i l).node j).state = (sim.node j).state := by
    intro j; rw [SimState.node_setNode]; split <;> rfl
  have hc : SameCircuit sim (sim.setNode i l) := by
    refine ⟨rfl, rfl, rfl, by simp [SimState.setNode], rfl, fun j => ?_, fun _ => ⟨rfl, rfl, rfl, rfl⟩⟩
    rw [SimState.node_setNode]; split <;> exact ⟨rfl, rfl, rfl⟩
  refine ⟨hc, fun h => ?_⟩
  have h' := h
  obtain ⟨-, -, -, h4, h5, h6, -, -⟩ := h'
  refine h.of_sameCircuit hc (by rw [hs]; exact h4) (by rw [hs]; exact h5) fun t ht => ?_
  rw [hs]
  exact (h6 t ht).2.2.2.1

/-- What every call of the host but `Setup` keeps: the circuit, that the network holds together, and the canonical form
of the bus's memory. -/
structure SimHeld (a b : SimState) : Prop where
  circuit : SameCircuit a b
  conductive : Conductive a → Conductive b
  memory : a.mem.wf = true → b.mem.wf = true

theorem SimHeld.refl (a : SimState) : SimHeld a a := ⟨.refl a, id, id⟩

theorem SimHeld.trans {a b c : SimState} (h : SimHeld a b) (k : SimHeld b c) : SimHeld a c :=
  ⟨h.circuit.trans k.circuit, fun x => k.conductive (h.conductive x), fun x => k.memory (h.memory x)⟩

theorem settle_held {p : Params} {sim sim' : SimState} {seeds : List Nat} (h : sim.settle p seeds = .ok sim') :
    SimHeld sim sim' := ⟨(settle_kept h).1.circuit, (settle_kept h).2, fun w => by rw [(settle_kept h).1.mem]; exact w⟩

theorem setNode_held (sim : SimState) (i : Nat) (l : Level) : SimHeld sim (sim.setNode i l) :=
  ⟨(setNode_circuit sim i l).1, (setNode_circuit sim i l).2, id⟩

theorem setNodes_held (v : Nat) (l : List Nat) (sim : SimState) : SimHeld sim (sim.setNodes v l) := by
  induction l generalizing sim v with
  | nil => exact .refl _
  | cons n l ih => exact (setNode_held sim n _).trans (ih ..)

/-- Of a computation that succeeds, the first part does. -/
theorem bind_ok {α β : Type} {x : Except Fault α} {f : α → Except Fault β} {b : β} (h : (x >>= f) = .ok b) :
    ∃ a, x = .ok a ∧ f a = .ok b := by
  cases x with
  | ok a => exact ⟨a, rfl, h⟩
  | error e => cases h

theorem writeBit_held {p : Params} {sim sim' : SimState} {name : String} {l : Level}
    (h : sim.writeBit p name l = .ok sim') : SimHeld sim sim' := by
  obtain ⟨n, -, h⟩ := bind_ok h
  exact (setNode_held sim n l).trans (settle_held h)

/-- What a pin write leaves: the named node driven, every other node's drive as it was, the bus untouched (R140). -/
theorem writeBit_drive {p : Params} {sim sim' : SimState} {name : String} {l : Level} {n : Nat}
    (hl : sim.lookup name = .ok n) (h : sim.writeBit p name l = .ok sim') :
    sim'.Drives n l ∧ sim'.mem = sim.mem ∧ SameCircuit sim sim' ∧
      ∀ k, k ≠ n → (sim'.node k).pullUp = (sim.node k).pullUp ∧ (sim'.node k).pullDown = (sim.node k).pullDown ∧
        (sim'.node k).floating = (sim.node k).floating := by
  have hc := (writeBit_held h).circuit
  obtain ⟨m, h1, h⟩ := bind_ok h
  rw [hl] at h1; cases h1
  have hk := (settle_kept h).1
  refine ⟨hk.drive.drives (setNode_drives sim l (lookup_node hl).1), hk.mem, hc, fun k hne => ?_⟩
  have := hk.drive k
  rwa [setNode_other sim l hne] at this

theorem lookups_names {sim : SimState} (l : List String) {ns : List Nat} (h : sim.lookups l = .ok ns) :
    ∀ n ∈ ns, ∃ name ∈ l, sim.lookup name = .ok n := by
  induction l generalizing ns with
  | nil => cases h; intro n hn; cases hn
  | cons a l ih =>
    obtain ⟨m, h1, h⟩ := bind_ok h
    obtain ⟨ms, h2, h⟩ := bind_ok h
    cases h
    intro n hn
    rcases List.mem_cons.mp hn with rfl | hn
    · exact ⟨a, by simp, h1⟩
    · obtain ⟨b, hb, he⟩ := ih h2 n hn
      exact ⟨b, by simp [hb], he⟩

theorem setNodes_other (v : Nat) (l : List Nat) (sim : SimState) {k : Nat} (h : k ∉ l) :
    (sim.setNodes v l).node k = sim.node k ∧ (sim.setNodes v l).mem = sim.mem := by
  induction l generalizing sim v with
  | nil => exact ⟨rfl, rfl⟩
  | cons n l ih =>
    obtain ⟨h1, h2⟩ := ih (v / 2) (sim.setNode n (levelOf (v.testBit 0))) (fun e => h (by simp [e]))
    exact ⟨h1.trans (setNode_other sim _ (fun e => h (by simp [e]))), h2⟩

/-- A multi-bit write leaves the drive of a node of another name, and the bus. -/
theorem writeBits_other {p : Params} {sim sim' : SimState} {base : String} {w v : Nat}
    (h : sim.writeBits p base w v = .ok sim') {name : String} {n : Nat} (hn : sim.lookup name = .ok n)
    (hne : name ∉ bitNames base w) :
    sim'.mem = sim.mem ∧ (sim'.node n).pullUp = (sim.node n).pullUp ∧ (sim'.node n).pullDown = (sim.node n).pullDown ∧
      (sim'.node n).floating = (sim.node n).floating := by
  obtain ⟨ns, h1, h⟩ := bind_ok h
  have hk := (settle_kept h).1
  have hx : n ∉ ns := by
    intro hmem
    obtain ⟨b, hb, he⟩ := lookups_names _ h1 n hmem
    exact lookup_ne hn he (fun e => hne (e ▸ hb)) rfl
  obtain ⟨e1, e2⟩ := setNodes_other v ns sim hx
  have := hk.drive n
  rw [e1] at this
  exact ⟨hk.mem.trans e2, this⟩

theorem writeBits_held {p : Params} {sim sim' : SimState} {base : String} {n v : Nat}
    (h : sim.writeBits p base n v = .ok sim') : SimHeld sim sim' := by
  obtain ⟨ns, -, h⟩ := bind_ok h
  exact (setNodes_held v ns sim).trans (settle_held h)

theorem withMem_held (sim : SimState) (m : Memory) (h : sim.mem.wf = true → m.wf = true) :
    SimHeld sim { sim with mem := m } :=
  ⟨⟨rfl, rfl, rfl, rfl, rfl, fun _ => ⟨rfl, rfl, rfl⟩, fun _ => ⟨rfl, rfl, rfl, rfl⟩⟩, id, h⟩

theorem withPhase_held (sim : SimState) (ph : SimPhase) : SimHeld sim { sim with phase := ph } :=
  ⟨⟨rfl, rfl, rfl, rfl, rfl, fun _ => ⟨rfl, rfl, rfl⟩, fun _ => ⟨rfl, rfl, rfl, rfl⟩⟩, id, id⟩

theorem memWrite_held {p : Params} {sim sim' : SimState} {a : Addr} {v : Byte} (h : sim.memWrite p a v = .ok sim') :
    SimHeld sim sim' := by
  unfold SimState.memWrite at h
  split at h <;> cases h
  exact withMem_held _ _ (Memory.wf_write_addr a v)

theorem halfClock_held {p : Params} {sim sim' : SimState} (h : sim.halfClock p = .ok sim') : SimHeld sim sim' := by
  obtain ⟨c, -, h⟩ := bind_ok h
  cases c with
  | true =>
    obtain ⟨sim1, h1, h⟩ := bind_ok h
    refine (writeBit_held h1).trans ?_
    obtain ⟨rw, -, h⟩ := bind_ok h
    cases rw with
    | true =>
      obtain ⟨a, -, h⟩ := bind_ok h
      obtain ⟨d, -, h⟩ := bind_ok h
      exact writeBits_held h
    | false => cases h; exact .refl _
  | false =>
    obtain ⟨sim1, h1, h⟩ := bind_ok h
    refine (writeBit_held h1).trans ?_
    obtain ⟨rw, -, h⟩ := bind_ok h
    cases rw with
    | true => cases h; exact .refl _
    | false =>
      obtain ⟨a, -, h⟩ := bind_ok h
      obtain ⟨d, -, h⟩ := bind_ok h
      exact memWrite_held h

theorem halfClocks_held {p : Params} (n : Nat) {sim sim' : SimState} (h : SimState.halfClocks p n sim = .ok sim') :
    SimHeld sim sim' := by
  induction n generalizing sim with
  | zero => cases h; exact .refl _
  | succ n ih =>
    obtain ⟨sim1, h1, h⟩ := bind_ok h
    exact (halfClock_held h1).trans (ih h)

theorem forcePins_held (l : List (String × Level)) {sim sim' : SimState} (h : sim.forcePins l = .ok sim') :
    SimHeld sim sim' := by
  induction l generalizing sim with
  | nil => cases h; exact .refl _
  | cons c l ih =>
    obtain ⟨n, -, h⟩ := bind_ok h
    exact (setNode_held sim n c.2).trans (ih h)

theorem pulses_held {p : Params} (n : Nat) {sim sim' : SimState} (h : SimState.pulses p n sim = .ok sim') :
    SimHeld sim sim' := by
  induction n generalizing sim with
  | zero => cases h; exact .refl _
  | succ n ih =>
    obtain ⟨sim1, h1, h⟩ := bind_ok h
    obtain ⟨sim2, h2, h⟩ := bind_ok h
    exact ((writeBit_held h1).trans (writeBit_held h2)).trans (ih h)

theorem init_held {p : Params} {sim sim' : SimState} (h : sim.init p = .ok sim') : SimHeld sim sim' := by
  obtain ⟨sim1, h1, h⟩ := bind_ok h
  obtain ⟨sim2, h2, h⟩ := bind_ok h
  obtain ⟨sim3, h3, h⟩ := bind_ok h
  exact (((forcePins_held _ h1).trans (settle_held h2)).trans (pulses_held _ h3)).trans (writeBit_held h)

theorem runStartProgram_held {p : Params} {sim sim' : SimState} (h : sim.runStartProgram p = .ok sim') :
    SimHeld sim sim' := by
  obtain ⟨sim1, h1, h⟩ := bind_ok h
  exact (halfClocks_held _ h1).trans (halfClock_held h)

theorem noteStep_held (before after : SimState) : SimHeld after (before.noteStep after) := by
  unfold SimState.noteStep
  split
  · split
    · exact .refl _
    · exact withPhase_held ..
  all_goals exact .refl _

/-- What a call leaves of the lifecycle: a SIM past `fresh` stays where it is; a fresh one stays fresh exactly when the call
changed nothing. -/
theorem noteStep_phase (before after : SimState) (h : after.phase = before.phase) :
    (before.phase ≠ .fresh → (before.noteStep after).phase = before.phase) ∧
      (before.phase = .fresh → (before.noteStep after = before ∧ after = before) ∨
        ((before.noteStep after).phase = .stepped ∧ after ≠ before)) := by
  unfold SimState.noteStep
  cases hb : before.phase <;> rw [hb] at h <;> simp only [h, ne_eq, reduceCtorEq, not_true, not_false_eq_true,
    false_imp_iff, true_imp_iff, and_true, true_and, and_self]
  by_cases e : after = before <;> simp [e]

/-! ### The lifecycle, and pins once driven -/

/-- What the calls that step SIM keep beside `SimHeld`: the lifecycle, and that a driven pin stays one (R21). -/
structure StaysDriven (a b : SimState) : Prop where
  phase : b.phase = a.phase
  driven : ∀ i, (a.node i).floating = false → (b.node i).floating = false

theorem StaysDriven.refl (a : SimState) : StaysDriven a a := ⟨rfl, fun _ h => h⟩

theorem StaysDriven.trans {a b c : SimState} (h : StaysDriven a b) (k : StaysDriven b c) : StaysDriven a c :=
  ⟨k.phase.trans h.phase, fun i x => k.driven i (h.driven i x)⟩

theorem setNode_staysDriven (sim : SimState) (n : Nat) (l : Level) : StaysDriven sim (sim.setNode n l) := by
  refine ⟨rfl, fun i h => ?_⟩
  rw [SimState.node_setNode]
  split
  · rfl
  · exact h

theorem setNodes_staysDriven (v : Nat) (l : List Nat) (sim : SimState) : StaysDriven sim (sim.setNodes v l) := by
  induction l generalizing v sim with
  | nil => exact .refl _
  | cons n l ih => exact (setNode_staysDriven sim n _).trans (ih ..)

theorem settle_staysDriven {p : Params} {sim sim' : SimState} {seeds : List Nat} (h : sim.settle p seeds = .ok sim') :
    StaysDriven sim sim' :=
  ⟨(settle_kept h).1.phase, fun i x => ((settle_kept h).1.drive i).2.2.trans x⟩

theorem writeBit_staysDriven {p : Params} {sim sim' : SimState} {name : String} {l : Level}
    (h : sim.writeBit p name l = .ok sim') : StaysDriven sim sim' := by
  obtain ⟨n, -, h⟩ := bind_ok h
  exact (setNode_staysDriven ..).trans (settle_staysDriven h)

theorem writeBits_staysDriven {p : Params} {sim sim' : SimState} {base : String} {n v : Nat}
    (h : sim.writeBits p base n v = .ok sim') : StaysDriven sim sim' := by
  obtain ⟨ns, -, h⟩ := bind_ok h
  exact (setNodes_staysDriven ..).trans (settle_staysDriven h)

/-- A half-clock is a write of `clk0` and what the bus adds (R150). -/
theorem halfClock_staysDriven {p : Params} {sim sim' : SimState} (h : sim.halfClock p = .ok sim') :
    ∃ l mid, sim.writeBit p "clk0" l = .ok mid ∧ StaysDriven mid sim' := by
  obtain ⟨c, -, h⟩ := bind_ok h
  cases c with
  | true =>
    obtain ⟨mid, h1, h⟩ := bind_ok h
    refine ⟨_, mid, h1, ?_⟩
    obtain ⟨rw, -, h⟩ := bind_ok h
    cases rw with
    | true =>
      obtain ⟨a, -, h⟩ := bind_ok h
      obtain ⟨d, -, h⟩ := bind_ok h
      exact writeBits_staysDriven h
    | false => cases h; exact .refl _
  | false =>
    obtain ⟨mid, h1, h⟩ := bind_ok h
    refine ⟨_, mid, h1, ?_⟩
    obtain ⟨rw, -, h⟩ := bind_ok h
    cases rw with
    | true => cases h; exact .refl _
    | false =>
      obtain ⟨a, -, h⟩ := bind_ok h
      obtain ⟨d, -, h⟩ := bind_ok h
      unfold SimState.memWrite at h
      split at h <;> cases h
      exact ⟨rfl, fun _ x => x⟩

theorem halfClocks_staysDriven {p : Params} (n : Nat) {sim sim' : SimState} (h : SimState.halfClocks p n sim = .ok sim') :
    StaysDriven sim sim' := by
  induction n generalizing sim with
  | zero => cases h; exact .refl _
  | succ n ih =>
    obtain ⟨sim1, h1, h⟩ := bind_ok h
    obtain ⟨l, mid, h1, h2⟩ := halfClock_staysDriven h1
    exact ((writeBit_staysDriven h1).trans h2).trans (ih h)

/-- On a SIM no pin of which is driven, a pin write changes something, whatever follows it. -/
theorem writeBit_moved {p : Params} {sim mid sim' : SimState} {name : String} {l : Level}
    (h : sim.writeBit p name l = .ok mid) (k : StaysDriven mid sim') (hu : Undriven sim) : sim' ≠ sim := by
  obtain ⟨i, hi, h⟩ := bind_ok h
  have := k.driven i ((settle_staysDriven h).driven i (setNode_drives sim l (lookup_node hi).1).2.2)
  rintro rfl
  rw [hu i] at this
  cases this

/-! ### Runs of half-clocks and of pulses -/

theorem halfClocks_append {p : Params} (a b : Nat) (sim : SimState) :
    SimState.halfClocks p (a + b) sim = (SimState.halfClocks p a sim >>= SimState.halfClocks p b) := by
  induction a generalizing sim with
  | zero => rw [Nat.zero_add]; rfl
  | succ a ih =>
    rw [Nat.succ_add]
    simp only [SimState.halfClocks, bind, Except.bind]
    cases sim.halfClock p with
    | error f => rfl
    | ok m => exact ih m

/-- Half-clocks one after another, whatever list counts them. -/
theorem halfClocks_foldlM {p : Params} {α : Type} (l : List α) (sim : SimState) :
    SimState.halfClocks p l.length sim = l.foldlM (fun m _ => m.halfClock p) sim := by
  induction l generalizing sim with
  | nil => rfl
  | cons a l ih =>
    simp only [List.length_cons, SimState.halfClocks, List.foldlM_cons, bind, Except.bind]
    cases sim.halfClock p with
    | error f => rfl
    | ok m => exact ih m

/-- A pulse is a write of `clk0` high and one of it low (R441). -/
theorem pulses_foldlM {p : Params} (k : Nat) (sim : SimState) :
    SimState.pulses p k sim =
      (List.replicate k [Level.high, .low]).flatten.foldlM (fun m l => m.writeBit p "clk0" l) sim := by
  induction k generalizing sim with
  | zero => rfl
  | succ k ih =>
    simp only [SimState.pulses, List.replicate_succ, List.flatten_cons, List.cons_append, List.nil_append,
      List.foldlM_cons, bind, Except.bind]
    cases sim.writeBit p "clk0" .high with
    | error f => rfl
    | ok m =>
      simp only
      cases m.writeBit p "clk0" .low with
      | error f => rfl
      | ok m => exact ih m

end Sys2Proof.Machine
end

