-- ==== Sys2Proof/Laws/Step.lean ====
section
/-! SUPPORT. Everything a step of SEQ can do: one run of a queue to its end, from the ready state. -/

namespace Sys2Proof.Machine

/-- A step with no call of the host pending is SEQ's. -/
theorem step_eq_stepSeq {s : State} (h : s.host = []) : step s = stepSeq s := by
  unfold step; rw [h]

/-- A step takes the oldest call. -/
theorem step_eq_runCmd {s : State} {c : HostCmd} {rest : List HostCmd} (h : s.host = c :: rest) :
    step s = runCmd c (s.setHost rest) := by
  unfold step; rw [h]

theorem step_inFlight {s : State} (hh : s.host = []) (hq : s.seq.ready.q ≠ []) :
    step s = finishInFlight (s.setSeq s.seq.ready) := by
  rw [step_eq_stepSeq hh]
  obtain h | ⟨op, rest, h, -⟩ := s.seq.ready_q
  · contradiction
  · simp [stepSeq, SeqState.start, h]

/-- With the queue empty and an NMI pending (R413, R414). -/
theorem step_nmi {s : State} (hh : s.host = []) (hq : s.seq.ready.q = []) (hn : s.seq.ready.nmiPending = true) :
    step s = takeInterrupt nmiVector (s.setSeq s.seq.ready.acknowledge) := by
  simp [step_eq_stepSeq hh, stepSeq, SeqState.start, hq, SeqState.poll, hn]

/-- With the queue empty, no NMI pending and an IRQ asserted that `P.I` does not mask. -/
theorem step_irq {s : State} (hh : s.host = []) (hq : s.seq.ready.q = []) (hn : s.seq.ready.nmiPending = false)
    (hi : s.seq.irqLine = true) (hp : getFlag s.seq.p .i = false) :
    step s = takeInterrupt irqVector (s.setSeq s.seq.ready) := by
  have ha : s.seq.ready.acknowledge = s.seq.ready := by
    cases hr : s.seq.ready
    rw [hr] at hn; simp only at hn; subst hn; rfl
  simp [step_eq_stepSeq hh, stepSeq, SeqState.start, hq, SeqState.poll, hn, hi, SeqState.flag, hp, ha]

/-- No interrupt is due. -/
theorem poll_opcode {st : SeqState} (hn : st.nmiPending = false) (hi : st.irqLine = true → getFlag st.p .i = true) :
    st.poll = .opcode := by
  simp only [SeqState.poll, hn, SeqState.flag]
  cases h : st.irqLine <;> simp [hi, h]

/-- With the queue empty and no interrupt due: the instruction at `PC`. -/
theorem step_instruction {s : State} (hh : s.host = []) (hq : s.seq.ready.q = []) (hp : s.seq.ready.poll = .opcode)
    (hlt : s.seq.ready.pc.toNat < s.params.busSize) :
    step s = exec (decodeOpcode (s.seq.peek s.seq.ready.pc)) (s.setSeq s.seq.ready) := by
  have e : s.seq.ready.peek s.seq.ready.pc = s.seq.peek s.seq.ready.pc := SeqState.peek_congr s.seq.ready_mem _
  have hr : s.seq.ready.memRead s.params s.seq.ready.pc = .ok (s.seq.peek s.seq.ready.pc) := by
    simp [SeqState.memRead, hlt, e]
  simp [step_eq_stepSeq hh, stepSeq, SeqState.start, hq, hp, hr]

/-- Everything a step of SEQ can do. -/
theorem stepSeq_cases {s t : State} (hh : s.host = []) (h : step s = .next t) :
    ∃ n b q st, t = s.setSeq st ∧ finish s.params n { s.seq.ready with nmiPending := b, q := q } = .ok st ∧
      q.length ≤ n ∧ (FreeLast s.seq.ready.q → FreeLast q) := by
  have run : ∀ (n : Nat) (st0 : SeqState), (s.setSeq s.seq.ready).ofSeq (finish s.params n st0) = .next t →
      ∃ st, t = s.setSeq st ∧ finish s.params n st0 = .ok st := by
    intro n st0 h
    unfold State.ofSeq at h
    split at h
    · rename_i st hst; cases h; exact ⟨st, rfl, hst⟩
    · cases h
  rw [step_eq_stepSeq hh, stepSeq] at h
  split at h
  · obtain ⟨st, h1, h2⟩ := run _ _ h
    exact ⟨_, s.seq.ready.nmiPending, s.seq.ready.q, st, h1, h2, Nat.le_refl _, id⟩
  · rename_i v _
    obtain ⟨st, h1, h2⟩ := run (interruptSequence v).length { s.seq.ready with nmiPending := false, q := interruptSequence v } h
    exact ⟨_, _, _, st, h1, h2, Nat.le_refl _, fun _ => by simp [FreeLast, interruptSequence, MicroOp.isFree]⟩
  · rename_i i _
    obtain ⟨ops, -, h2, h3, -⟩ := decodeSequence_cases i.opcode
    rw [decodeOpcode_opcode] at h2
    rw [exec_of_rowSequence h2] at h
    obtain ⟨st, h1, h2⟩ := run (MicroOp.opc :: ops).length { s.seq.ready with q := .opc :: ops } h
    refine ⟨_, s.seq.ready.nmiPending, _, st, h1, h2, Nat.le_refl _, fun _ o ho => ?_⟩
    cases ops with
    | nil => simp at ho
    | cons a l =>
      rw [List.dropLast_cons_of_ne_nil (by simp)] at ho
      rcases List.mem_cons.mp ho with rfl | ho
      · rfl
      · exact h3.free o ho
  · cases h

/-- The frame of a step of SEQ: the other engine, the parameters and the inputs untouched; memory canonical, the queue at
an end, bits 4 and 5 of `P` kept. -/
theorem stepSeq_frame {s t : State} (hh : s.host = []) (h : step s = .next t) :
    t.sim = s.sim ∧ t.params = s.params ∧ t.host = s.host ∧
      (FreeLast s.seq.ready.q → t.seq.q = [] ∨ t.seq.q = [.setPcAd]) ∧
      (s.seq.mem.wf = true → t.seq.mem.wf = true) ∧ t.seq.p &&& 0x30#8 = s.seq.p &&& 0x30#8 := by
  obtain ⟨n, b, q, st, rfl, h1, h2, h3⟩ := stepSeq_cases hh h
  obtain ⟨-, a1, a2⟩ := finish_frame n h1
  exact ⟨rfl, rfl, rfl, fun hf => finish_end n (h3 hf) h2 h1, fun hw => a1 (by simpa using hw), a2.trans (by simp)⟩

end Sys2Proof.Machine
end

