-- ==== Sys2Proof/Laws/HostOps.lean ====
section
/-! SUPPORT. Everything a call of the host can do: it touches one engine, and leaves that engine's invariants. -/

namespace Sys2Proof.Machine

theorem ofSim_next {s t : State} {r : Except Fault SimState} (h : s.ofSim r = .next t) :
    ∃ sim, r = .ok sim ∧ t = s.setSim sim := by
  unfold State.ofSim at h
  split at h
  · cases h; exact ⟨_, rfl, rfl⟩
  · cases h

theorem ofSeq_next {s t : State} {r : Except Fault SeqState} (h : s.ofSeq r = .next t) :
    ∃ st, r = .ok st ∧ t = s.setSeq st := by
  unfold State.ofSeq at h
  split at h
  · cases h; exact ⟨_, rfl, rfl⟩
  · cases h

theorem map_ok {α β : Type} {f : α → β} {r : Except Fault α} {b : β} (h : r.map f = .ok b) : ∃ a, r = .ok a ∧ b = f a := by
  cases r with
  | ok a => cases h; exact ⟨a, rfl, rfl⟩
  | error e => cases h

theorem stepSim_next {s t : State} {r : Except Fault SimState} (h : s.stepSim r = .next t) :
    ∃ sim, r = .ok sim ∧ t = s.setSim (s.sim.noteStep sim) := by
  obtain ⟨sim, h1, rfl⟩ := ofSim_next h
  obtain ⟨sim', rfl, rfl⟩ := map_ok h1
  exact ⟨sim', rfl, rfl⟩

theorem readSim_next {α : Type} {s t : State} {r : Except Fault α} (h : s.readSim r = .next t) : t = s := by
  unfold State.readSim at h
  split at h <;> cases h
  rfl

/-- A call that steps SIM holds what the computation holds. -/
theorem stepSim_held {s t : State} {r : Except Fault SimState} (h : s.stepSim r = .next t)
    (hr : ∀ sim, r = .ok sim → SimHeld s.sim sim) : t = s.setSim t.sim ∧ SimHeld s.sim t.sim := by
  obtain ⟨sim, h1, rfl⟩ := stepSim_next h
  exact ⟨rfl, (hr sim h1).trans (noteStep_held s.sim sim)⟩

/-- A call on SIM other than `Setup`: SIM alone changes, and holds what it held. -/
theorem runCmd_sim {c : HostCmd} {s t : State} (h : runCmd c s = .next t) (hc : c.onSim = true)
    (hs : ∀ net, c ≠ .simSetup net) : t = s.setSim t.sim ∧ SimHeld s.sim t.sim := by
  cases c <;> first | exact Bool.noConfusion hc | simp only [runCmd] at h
  case simSetup net => exact absurd rfl (hs net)
  case simInit =>
    unfold State.simInit at h
    split at h
    · obtain ⟨sim, h1, rfl⟩ := ofSim_next h
      obtain ⟨sim', h2, rfl⟩ := map_ok h1
      exact ⟨rfl, (init_held h2).trans (withPhase_held ..)⟩
    all_goals cases h
  case simRunStartProgram =>
    unfold State.simRunStartProgram at h
    split at h
    · obtain ⟨sim, h1, rfl⟩ := ofSim_next h
      exact ⟨rfl, runStartProgram_held h1⟩
    all_goals cases h
  case simHalfClock => exact stepSim_held h fun _ => halfClock_held
  case simClock => exact stepSim_held h fun _ => halfClocks_held _
  case simExecuteCycles n => exact stepSim_held h fun _ => halfClocks_held _
  case simWriteBit name l =>
    unfold State.simWriteBit at h
    split at h
    · cases h
    · exact stepSim_held h fun _ => writeBit_held
  case simWriteBits base n v =>
    unfold State.simWriteBits at h
    split at h
    · cases h
    · exact stepSim_held h fun _ => writeBits_held
  case simSettle seeds =>
    unfold State.simSettle at h
    split at h
    · exact stepSim_held h fun _ => settle_held
    · cases h
  case simReadBit name => rw [readSim_next h]; exact ⟨rfl, .refl _⟩
  case simReadBits base n => rw [readSim_next h]; exact ⟨rfl, .refl _⟩
  case simPoke a v =>
    obtain ⟨sim, h1, rfl⟩ := ofSim_next h
    exact ⟨rfl, memWrite_held h1⟩

/-- `Setup` as a call: a new SIM on the same bus (R120). -/
theorem runCmd_setup {net : Net} {s t : State} (h : runCmd (.simSetup net) s = .next t) :
    ∃ sim, setup net s.sim.mem = some sim ∧ t = s.setSim sim := by
  simp only [runCmd, State.simSetup] at h
  split at h
  · rename_i sim hs; cases h; exact ⟨sim, hs, rfl⟩
  · cases h

theorem resetSequence_shape : QueueShape resetSequence := by unfold QueueShape; decide

/-- A call on SEQ: SEQ alone changes, and keeps its invariants. -/
theorem runCmd_seq {c : HostCmd} {s t : State} (h : runCmd c s = .next t) (hc : c.onSim = false) :
    t = s.setSeq t.seq ∧ (QueueShape s.seq.q → QueueShape t.seq.q) ∧ (s.seq.mem.wf = true → t.seq.mem.wf = true) ∧
      t.seq.p &&& 0x30#8 = s.seq.p &&& 0x30#8 := by
  cases c <;> first | exact Bool.noConfusion hc | simp only [runCmd] at h
  case seqPowerOn => cases h; exact ⟨rfl, fun _ => resetSequence_shape, id, rfl⟩
  case seqClock =>
    obtain ⟨st, h1, rfl⟩ := ofSeq_next h
    obtain ⟨a, b, c⟩ := clock_frame h1
    exact ⟨rfl, fun hq => (a hq).1, b, c⟩
  case seqIrqLine b => cases h; exact ⟨rfl, id, id, rfl⟩
  case seqNmiLine b => cases h; exact ⟨rfl, id, id, rfl⟩
  case seqPoke a v =>
    obtain ⟨st, h1, rfl⟩ := ofSeq_next h
    simp only [SeqState.memWrite] at h1
    split at h1 <;> cases h1
    exact ⟨rfl, id, Memory.wf_write_addr a v, rfl⟩

end Sys2Proof.Machine
end

