-- ==== Sys2Proof/Laws/Inputs.lean ====
section
/-! SUPPORT. What an operation neither reads nor writes: the interrupt inputs with their hidden state, and the memory image,
which it reaches through its bus request alone (41_sequencer.md R170, R175; 10_state.md R37). -/

namespace Sys2Proof.Machine

/-- The fields outside an operation's reach, replaced. -/
def SeqState.withInputs (irq nmi prev pending : Bool) (m : Memory) (st : SeqState) : SeqState :=
  { st with irqLine := irq, nmiLine := nmi, nmiPrev := prev, nmiPending := pending, mem := m }

variable (irq nmi prev pending : Bool) (m : Memory)

theorem ReadFn.apply_withInputs (mode : DecimalMode) (e : ReadFn) (v : Byte) (st : SeqState) :
    e.apply mode v (st.withInputs irq nmi prev pending m) = (e.apply mode v st).withInputs irq nmi prev pending m := by
  cases e <;> try rfl
  simp only [ReadFn.apply]
  show (if decimalOn mode st.p then _ else _) = _
  split <;> rfl

theorem MicroOp.request_withInputs (mode : DecimalMode) (op : MicroOp) (st : SeqState) :
    op.request mode (st.withInputs irq nmi prev pending m) = op.request mode st := by
  cases op with
  | rmwFinal l e => cases e <;> cases l <;> rfl
  | write l v => cases v <;> cases l <;> rfl
  | push v => cases v <;> rfl
  | read l e => cases l <;> rfl
  | readIdx l r e => cases l <;> cases r <;> rfl
  | fixRead l e => cases l <;> rfl
  | dummyIdx l r => cases l <;> cases r <;> rfl
  | rmwDummy l => cases l <;> rfl
  | _ => rfl

theorem Cond.holds_withInputs (c : Cond) (st : SeqState) :
    c.holds (st.withInputs irq nmi prev pending m) = c.holds st := by cases c <;> rfl

theorem LatchPair.lo_withInputs (l : LatchPair) (st : SeqState) :
    l.lo (st.withInputs irq nmi prev pending m) = l.lo st := by cases l <;> rfl

theorem IndexReg.get_withInputs (r : IndexReg) (st : SeqState) :
    r.get (st.withInputs irq nmi prev pending m) = r.get st := by cases r <;> rfl

theorem MicroOp.effect_withInputs (mode : DecimalMode) (op : MicroOp) (d : Byte) (st : SeqState) :
    op.effect mode d (st.withInputs irq nmi prev pending m) =
      (op.effect mode d st).withInputs irq nmi prev pending m := by
  cases op with
  | rmwFinal l e => cases e <;> rfl
  | imm e => exact ReadFn.apply_withInputs irq nmi prev pending m mode e d { st with dl := d, pc := st.pc + 1 }
  | read l e =>
    cases e with
    | none => rfl
    | some e => exact ReadFn.apply_withInputs irq nmi prev pending m mode e d { st with dl := d }
  | dummyPc e =>
    cases e with
    | none => rfl
    | some e => cases e <;> rfl
  | brOffset c =>
    have e := c.holds_withInputs irq nmi prev pending m { st with dl := d, pc := st.pc + 1 }
    simp only [MicroOp.effect]
    split <;> rename_i h
    · rw [if_pos (e.symm.trans h)]; rfl
    · rw [if_neg (fun x => h (e.trans x))]; rfl
  | brTake =>
    by_cases h : hiByte (st.pc + sext16 st.dl) = hiByte st.pc
    · simp only [MicroOp.effect, SeqState.withInputs, h, if_true]; rfl
    · simp only [MicroOp.effect, SeqState.withInputs, h, if_false]
  | readIdx l r e =>
    have h : l.setLo (l.lo st + r.get st) { st.withInputs irq nmi prev pending m with dl := d } =
        (l.setLo (l.lo st + r.get st) { st with dl := d }).withInputs irq nmi prev pending m := by cases l <;> rfl
    simp only [MicroOp.effect]
    rw [LatchPair.lo_withInputs, IndexReg.get_withInputs, h, ReadFn.apply_withInputs]
    split <;> rfl
  | fixRead l e =>
    have h : l.setHi (l.hi (st.withInputs irq nmi prev pending m) + 1) { st.withInputs irq nmi prev pending m with dl := d } =
        (l.setHi (l.hi st + 1) { st with dl := d }).withInputs irq nmi prev pending m := by cases l <;> rfl
    simp only [MicroOp.effect]
    rw [h, ReadFn.apply_withInputs]
  | dummyIdx l r =>
    simp only [MicroOp.effect]
    rw [LatchPair.lo_withInputs, IndexReg.get_withInputs]
    split <;> cases l <;> rfl
  | zpIndex r => cases r <;> rfl
  | pull l => cases l <;> rfl
  | pullInc l => cases l <;> rfl
  | _ => rfl

/-- A write's effect uses no byte from the bus. -/
theorem MicroOp.effect_of_write {mode : DecimalMode} {op : MicroOp} {st : SeqState} {a : Addr} {v : Byte}
    (h : op.request mode st = .write a v) (d d' : Byte) : op.effect mode d st = op.effect mode d' st := by
  cases op with
  | read l e => cases l <;> cases h
  | zpIndex r => cases h
  | brOffset c => cases h
  | pull l => cases h
  | pullInc l => cases h
  | _ => first | rfl | cases h

/-- Every operation but the opcode cycle and the free tail makes an access (R170). -/
theorem MicroOp.request_ne_idle (mode : DecimalMode) {op : MicroOp} (st : SeqState) (hf : op.isFree = false)
    (ho : op ≠ .opc) : op.request mode st ≠ .idle := by
  cases op with
  | rmwFinal l e => cases e <;> cases l <;> nofun
  | write l v => cases v <;> cases l <;> nofun
  | push v => cases v <;> nofun
  | read l e => cases l <;> nofun
  | opc => exact absurd rfl ho
  | setPcAd => cases hf
  | _ => nofun

/-- An operation on any bus: its request, then its effect. -/
theorem runOpOn_eq {σ : Type} (bus : Bus σ) (mode : DecimalMode) (op : MicroOp) (x : OnBus σ SeqState) :
    runOpOn bus mode op x = bus.serve x.env (op.request mode x.engine) (fun d => .ok (op.effect mode d x.engine)) := rfl

end Sys2Proof.Machine
end

