-- ==== Sys2Proof/Laws/Network.lean ====
section
/-! SUPPORT. What `Setup` builds: the arrays row by row, and a network that holds together (40_switch_network.md R120 to
R123). -/

namespace Sys2Proof.Machine

theorem allDistinct_iff {α : Type} [DecidableEq α] (l : List α) : allDistinct l = true ↔ l.Nodup := by
  induction l with
  | nil => simp [allDistinct]
  | cons a l ih => simp [allDistinct, ih]

/-- The transistor a row makes (R121, R24). -/
def Net.transistorOf (net : Net) (r : TransistorRow) : Transistor :=
  { name := r.name, gate := r.gate, t1 := (net.normalise r.terminal1 r.terminal2).1
    t2 := (net.normalise r.terminal1 r.terminal2).2, on := r.gate == net.pwr }

/-- The positions of the transistors a node gates, in table order. -/
def gatesOf (ts : List Transistor) (i : Nat) : List Nat :=
  (List.range ts.length).filter (fun t => (ts.getD t Transistor.absent).gate == i)

/-- The positions of the transistors a node is a terminal of, in table order, `t1` before `t2`. -/
def terminalsOf (ts : List Transistor) (i : Nat) : List Nat :=
  (List.range ts.length).flatMap (fun t =>
    (if (ts.getD t Transistor.absent).t1 = i then [t] else []) ++
      (if (ts.getD t Transistor.absent).t2 = i then [t] else []))

theorem getD_append_left {α : Type} (l : List α) (x d : α) {t : Nat} (h : t < l.length) :
    (l ++ [x]).getD t d = l.getD t d := by
  simp [List.getD_eq_getElem?_getD, List.getElem?_append_left h]

theorem getD_append_last {α : Type} (l : List α) (x d : α) : (l ++ [x]).getD l.length d = x := by
  simp [List.getD_eq_getElem?_getD]

theorem gatesOf_append (ts : List Transistor) (x : Transistor) (i : Nat) :
    gatesOf (ts ++ [x]) i = gatesOf ts i ++ if x.gate = i then [ts.length] else [] := by
  unfold gatesOf
  rw [List.length_append, List.length_singleton, List.range_succ, List.filter_append]
  congr 1
  · apply List.filter_congr
    intro t ht
    rw [getD_append_left _ _ _ (List.mem_range.mp ht)]
  · simp [List.filter_cons]

theorem terminalsOf_append (ts : List Transistor) (x : Transistor) (i : Nat) :
    terminalsOf (ts ++ [x]) i = terminalsOf ts i ++
      ((if x.t1 = i then [ts.length] else []) ++ (if x.t2 = i then [ts.length] else [])) := by
  unfold terminalsOf
  rw [List.length_append, List.length_singleton, List.range_succ, List.flatMap_append]
  congr 1
  · rw [List.flatMap_def, List.flatMap_def]
    congr 1
    apply List.map_congr_left
    intro t ht
    rw [getD_append_left _ _ _ (List.mem_range.mp ht)]
  · simp

/-- What the array holds after some rows of the transistor table. -/
structure Built (net : Net) (m : Memory) (rows : List TransistorRow) (sim : SimState) : Prop where
  transistors : sim.transistors = rows.map net.transistorOf
  length : sim.nodes.length = net.nodeCount
  node : ∀ i, i < net.nodeCount → sim.node i =
    { net.freshNode i with gates := gatesOf sim.transistors i, terminals := terminalsOf sim.transistors i }
  gnd : sim.gnd = net.gnd
  pwr : sim.pwr = net.pwr
  mem : sim.mem = m
  phase : sim.phase = .fresh
  readers : sim.readers = net.readers

theorem bare_built (net : Net) (m : Memory) : Built net m [] (net.bare m) := by
  refine ⟨rfl, by simp [Net.bare], fun i hi => ?_, rfl, rfl, rfl, rfl, rfl⟩
  simp [Net.bare, SimState.node, List.getD_eq_getElem?_getD, hi, gatesOf, terminalsOf, Net.freshNode]

theorem addTransistor_built {net : Net} {m : Memory} {rows : List TransistorRow} {sim : SimState}
    (h : Built net m rows sim) (r : TransistorRow) : Built net m (rows ++ [r]) (net.addTransistor sim r) := by
  have ht : (net.addTransistor sim r).transistors = sim.transistors ++ [net.transistorOf r] := rfl
  refine ⟨by rw [ht, h.transistors]; simp, by simp [Net.addTransistor, h.length], fun i hi => ?_, h.gnd, h.pwr, h.mem,
    h.phase, h.readers⟩
  have hn := h.node i hi
  have hl : i < sim.nodes.length := by rw [h.length]; exact hi
  rw [ht, gatesOf_append, terminalsOf_append]
  simp only [SimState.node, Net.addTransistor, getD_modify, List.length_modify, hl, and_true] at hn ⊢
  rw [hn]
  simp only [Net.transistorOf]
  by_cases h1 : r.gate = i <;> by_cases h2 : (net.normalise r.terminal1 r.terminal2).1 = i <;>
    by_cases h3 : (net.normalise r.terminal1 r.terminal2).2 = i <;> simp [h1, h2, h3]

theorem build_built (net : Net) (m : Memory) : Built net m net.transistorTable (net.build m) := by
  have key : ∀ (l rows : List TransistorRow) (sim : SimState), Built net m rows sim →
      Built net m (rows ++ l) (l.foldl net.addTransistor sim) := by
    intro l
    induction l with
    | nil => intro rows sim h; simpa using h
    | cons r l ih =>
      intro rows sim h
      have := ih (rows ++ [r]) _ (addTransistor_built h r)
      simpa using this
  exact key net.transistorTable [] _ (bare_built net m)

theorem setup_built {net : Net} {m : Memory} {sim : SimState} (h : setup net m = some sim) :
    net.wellFormed = true ∧ Built net m net.transistorTable sim := by
  unfold setup at h
  split at h
  · cases h; exact ⟨‹_›, build_built net m⟩
  · cases h

/-- The checks of R123 one by one. -/
theorem wellFormed_iff (net : Net) : net.wellFormed = true ↔
    net.gnd < net.nodeCount ∧ net.pwr < net.nodeCount ∧ net.gnd ≠ net.pwr ∧
      (∀ r ∈ net.nodeTable, r.index < net.nodeCount) ∧ (net.nodeTable.map (·.index)).Nodup ∧
      (net.nodeTable.filterMap (·.name)).Nodup ∧
      (∀ t ∈ net.transistorTable,
        t.gate < net.nodeCount ∧ t.terminal1 < net.nodeCount ∧ t.terminal2 < net.nodeCount) ∧
      (net.transistorTable.map (·.name)).Nodup := by
  simp only [Net.wellFormed, Net.validIds, Bool.and_eq_true, allDistinct_iff, List.all_eq_true, decide_eq_true_eq,
    bne_iff_ne, List.mem_cons, List.not_mem_nil, or_false, List.mem_map, forall_exists_index, and_imp,
    forall_apply_eq_imp_iff₂, forall_eq_or_imp, forall_eq, and_assoc]

/-- A row of the table is the row of its index (R20). -/
theorem rowOf_eq_some {net : Net} (h : (net.nodeTable.map (·.index)).Nodup) {r : NodeRow} (hr : r ∈ net.nodeTable) :
    net.rowOf r.index = some r := by
  unfold Net.rowOf
  generalize net.nodeTable = l at h hr
  induction l with
  | nil => cases hr
  | cons a l ih =>
    simp only [List.map_cons, List.nodup_cons] at h
    rw [List.find?_cons]
    rcases List.mem_cons.mp hr with rfl | hr
    · simp
    · have : (a.index == r.index) = false := by
        rw [beq_eq_false_iff_ne]
        intro e
        exact h.1 (e ▸ List.mem_map_of_mem hr)
      rw [this]
      exact ih h.2 hr

theorem rowOf_mem {net : Net} {i : Nat} {r : NodeRow} (h : net.rowOf i = some r) : r ∈ net.nodeTable ∧ r.index = i :=
  ⟨List.mem_of_find?_eq_some h, by simpa using List.find?_some h⟩

theorem mem_gatesOf {ts : List Transistor} {i t : Nat} :
    t ∈ gatesOf ts i ↔ t < ts.length ∧ (ts.getD t Transistor.absent).gate = i := by
  simp [gatesOf]

theorem mem_terminalsOf {ts : List Transistor} {i t : Nat} :
    t ∈ terminalsOf ts i ↔ t < ts.length ∧ ((ts.getD t Transistor.absent).t1 = i ∨ (ts.getD t Transistor.absent).t2 = i) := by
  simp only [terminalsOf, List.mem_flatMap, List.mem_range, List.mem_append]
  constructor
  · rintro ⟨u, hu, h | h⟩
    · split at h
      · rename_i hi; cases List.mem_singleton.mp h; exact ⟨hu, .inl hi⟩
      · cases h
    · split at h
      · rename_i hi; cases List.mem_singleton.mp h; exact ⟨hu, .inr hi⟩
      · cases h
  · rintro ⟨h, h1 | h1⟩
    · exact ⟨t, h, .inl (by rw [if_pos h1]; exact List.mem_singleton_self t)⟩
    · exact ⟨t, h, .inr (by rw [if_pos h1]; exact List.mem_singleton_self t)⟩

/-- What `Setup` builds holds together. -/
theorem Built.conductive {net : Net} {m : Memory} {sim : SimState} (hw : net.wellFormed = true)
    (h : Built net m net.transistorTable sim) : Conductive sim := by
  obtain ⟨w1, w2, w3, -, -, -, w7, -⟩ := (wellFormed_iff net).mp hw
  have hstate : ∀ i, i < net.nodeCount → (sim.node i).state = (i == net.pwr) := fun i hi => by rw [h.node i hi]; rfl
  have hout : ∀ i, ¬ i < net.nodeCount → sim.node i = Node.absent := by
    intro i hi
    rw [SimState.node, List.getD_eq_getElem?_getD, List.getElem?_eq_none (by rw [h.length]; omega)]
    rfl
  have htr : ∀ t, t < sim.transistors.length → ∃ r ∈ net.transistorTable, sim.trans t = net.transistorOf r := by
    intro t ht
    have hmem : sim.trans t ∈ sim.transistors := by
      rw [SimState.trans, List.getD_eq_getElem?_getD, List.getElem?_eq_getElem ht]
      exact List.getElem_mem ht
    rw [h.transistors] at hmem
    obtain ⟨r, hr, he⟩ := List.mem_map.mp hmem
    exact ⟨r, hr, he.symm⟩
  have hends : ∀ r ∈ net.transistorTable, (net.transistorOf r).t1 < net.nodeCount ∧ (net.transistorOf r).t2 < net.nodeCount := by
    intro r hr
    obtain ⟨-, a, b⟩ := w7 r hr
    simp only [Net.transistorOf, Net.normalise]
    split
    · exact ⟨b, a⟩
    · exact ⟨a, b⟩
  refine ⟨by rw [h.gnd, h.length]; exact w1, by rw [h.pwr, h.length]; exact w2, by rw [h.gnd, h.pwr]; exact w3, ?_, ?_,
    fun t ht => ?_, fun n t hm => ?_, fun n t hm => ?_⟩
  · rw [h.gnd, hstate _ w1]; simpa using w3
  · rw [h.pwr, hstate _ w2]; simp
  · obtain ⟨r, hr, he⟩ := htr t ht
    have a : (net.transistorOf r).gate < net.nodeCount := (w7 r hr).1
    obtain ⟨b, c⟩ := hends r hr
    have hg : ∀ i, i < net.nodeCount → (sim.node i).gates = gatesOf sim.transistors i ∧
        (sim.node i).terminals = terminalsOf sim.transistors i := fun i hi => by rw [h.node i hi]; exact ⟨rfl, rfl⟩
    rw [h.length, he, (hg _ b).2, (hg _ c).2, hstate _ a, (hg _ a).1]
    refine ⟨a, b, c, rfl, mem_gatesOf.mpr ⟨ht, ?_⟩, mem_terminalsOf.mpr ⟨ht, .inl ?_⟩, mem_terminalsOf.mpr ⟨ht, .inr ?_⟩, ?_⟩
    · exact congrArg Transistor.gate he
    · exact congrArg Transistor.t1 he
    · exact congrArg Transistor.t2 he
    · simp only [SimState.isRail, h.gnd, h.pwr, Net.transistorOf, Net.normalise, Bool.or_eq_true, beq_iff_eq]
      split
      · rename_i hx; exact fun _ => hx
      · rename_i hx; exact fun hy => absurd hy hx
  · by_cases hn : n < net.nodeCount
    · rw [h.node n hn] at hm; exact mem_gatesOf.mp hm
    · rw [hout n hn] at hm; cases hm
  · by_cases hn : n < net.nodeCount
    · rw [h.node n hn] at hm; exact mem_terminalsOf.mp hm
    · rw [hout n hn] at hm; cases hm

end Sys2Proof.Machine
end

