-- ==== Sys2Proof/Laws/PerInstr.lean ====
section
/-! SUPPORT. The statements made for every instruction, one lemma per constructor: the decoder gives an instruction back
from its opcode byte, and its row is the one R96 gives that byte. -/

namespace Sys2Proof.Laws.Coded

/-- The opcode byte of the instruction's row selects it, and its size is that of its format: one byte more for `BRK`, whose
padding byte R97 counts. -/
def Statement (i : Instr) : Prop :=
  decodeOpcode i.opcode = i ∧
    i.bytes = match i.format with
      | .imp | .acc => if i = .brk then 2 else 1
      | .imm | .zp | .zpx | .zpy | .izx | .izy | .rel => 2
      | .abs | .abx | .aby | .ind => 3

theorem brk : Statement .brk := ⟨rfl, rfl⟩
theorem oraIzx : Statement .oraIzx := ⟨rfl, rfl⟩
theorem unk02 : Statement .unk02 := ⟨rfl, rfl⟩
theorem sloIzx : Statement .sloIzx := ⟨rfl, rfl⟩
theorem nopZp04 : Statement .nopZp04 := ⟨rfl, rfl⟩
theorem oraZp : Statement .oraZp := ⟨rfl, rfl⟩
theorem aslZp : Statement .aslZp := ⟨rfl, rfl⟩
theorem sloZp : Statement .sloZp := ⟨rfl, rfl⟩
theorem php : Statement .php := ⟨rfl, rfl⟩
theorem oraImm : Statement .oraImm := ⟨rfl, rfl⟩
theorem aslAcc : Statement .aslAcc := ⟨rfl, rfl⟩
theorem ancImm0B : Statement .ancImm0B := ⟨rfl, rfl⟩
theorem nopAbs : Statement .nopAbs := ⟨rfl, rfl⟩
theorem oraAbs : Statement .oraAbs := ⟨rfl, rfl⟩
theorem aslAbs : Statement .aslAbs := ⟨rfl, rfl⟩
theorem sloAbs : Statement .sloAbs := ⟨rfl, rfl⟩
theorem bpl : Statement .bpl := ⟨rfl, rfl⟩
theorem oraIzy : Statement .oraIzy := ⟨rfl, rfl⟩
theorem unk12 : Statement .unk12 := ⟨rfl, rfl⟩
theorem sloIzy : Statement .sloIzy := ⟨rfl, rfl⟩
theorem nopZpx14 : Statement .nopZpx14 := ⟨rfl, rfl⟩
theorem oraZpx : Statement .oraZpx := ⟨rfl, rfl⟩
theorem aslZpx : Statement .aslZpx := ⟨rfl, rfl⟩
theorem sloZpx : Statement .sloZpx := ⟨rfl, rfl⟩
theorem clc : Statement .clc := ⟨rfl, rfl⟩
theorem oraAby : Statement .oraAby := ⟨rfl, rfl⟩
theorem nopImp1A : Statement .nopImp1A := ⟨rfl, rfl⟩
theorem sloAby : Statement .sloAby := ⟨rfl, rfl⟩
theorem nopAbx1C : Statement .nopAbx1C := ⟨rfl, rfl⟩
theorem oraAbx : Statement .oraAbx := ⟨rfl, rfl⟩
theorem aslAbx : Statement .aslAbx := ⟨rfl, rfl⟩
theorem sloAbx : Statement .sloAbx := ⟨rfl, rfl⟩
theorem jsr : Statement .jsr := ⟨rfl, rfl⟩
theorem andIzx : Statement .andIzx := ⟨rfl, rfl⟩
theorem unk22 : Statement .unk22 := ⟨rfl, rfl⟩
theorem rlaIzx : Statement .rlaIzx := ⟨rfl, rfl⟩
theorem bitZp : Statement .bitZp := ⟨rfl, rfl⟩
theorem andZp : Statement .andZp := ⟨rfl, rfl⟩
theorem rolZp : Statement .rolZp := ⟨rfl, rfl⟩
theorem rlaZp : Statement .rlaZp := ⟨rfl, rfl⟩
theorem plp : Statement .plp := ⟨rfl, rfl⟩
theorem andImm : Statement .andImm := ⟨rfl, rfl⟩
theorem rolAcc : Statement .rolAcc := ⟨rfl, rfl⟩
theorem ancImm2B : Statement .ancImm2B := ⟨rfl, rfl⟩
theorem bitAbs : Statement .bitAbs := ⟨rfl, rfl⟩
theorem andAbs : Statement .andAbs := ⟨rfl, rfl⟩
theorem rolAbs : Statement .rolAbs := ⟨rfl, rfl⟩
theorem rlaAbs : Statement .rlaAbs := ⟨rfl, rfl⟩
theorem bmi : Statement .bmi := ⟨rfl, rfl⟩
theorem andIzy : Statement .andIzy := ⟨rfl, rfl⟩
theorem unk32 : Statement .unk32 := ⟨rfl, rfl⟩
theorem rlaIzy : Statement .rlaIzy := ⟨rfl, rfl⟩
theorem nopZpx34 : Statement .nopZpx34 := ⟨rfl, rfl⟩
theorem andZpx : Statement .andZpx := ⟨rfl, rfl⟩
theorem rolZpx : Statement .rolZpx := ⟨rfl, rfl⟩
theorem rlaZpx : Statement .rlaZpx := ⟨rfl, rfl⟩
theorem sec : Statement .sec := ⟨rfl, rfl⟩
theorem andAby : Statement .andAby := ⟨rfl, rfl⟩
theorem nopImp3A : Statement .nopImp3A := ⟨rfl, rfl⟩
theorem rlaAby : Statement .rlaAby := ⟨rfl, rfl⟩
theorem nopAbx3C : Statement .nopAbx3C := ⟨rfl, rfl⟩
theorem andAbx : Statement .andAbx := ⟨rfl, rfl⟩
theorem rolAbx : Statement .rolAbx := ⟨rfl, rfl⟩
theorem rlaAbx : Statement .rlaAbx := ⟨rfl, rfl⟩
theorem rti : Statement .rti := ⟨rfl, rfl⟩
theorem eorIzx : Statement .eorIzx := ⟨rfl, rfl⟩
theorem unk42 : Statement .unk42 := ⟨rfl, rfl⟩
theorem sreIzx : Statement .sreIzx := ⟨rfl, rfl⟩
theorem nopZp44 : Statement .nopZp44 := ⟨rfl, rfl⟩
theorem eorZp : Statement .eorZp := ⟨rfl, rfl⟩
theorem lsrZp : Statement .lsrZp := ⟨rfl, rfl⟩
theorem sreZp : Statement .sreZp := ⟨rfl, rfl⟩
theorem pha : Statement .pha := ⟨rfl, rfl⟩
theorem eorImm : Statement .eorImm := ⟨rfl, rfl⟩
theorem lsrAcc : Statement .lsrAcc := ⟨rfl, rfl⟩
theorem alrImm : Statement .alrImm := ⟨rfl, rfl⟩
theorem jmpAbs : Statement .jmpAbs := ⟨rfl, rfl⟩
theorem eorAbs : Statement .eorAbs := ⟨rfl, rfl⟩
theorem lsrAbs : Statement .lsrAbs := ⟨rfl, rfl⟩
theorem sreAbs : Statement .sreAbs := ⟨rfl, rfl⟩
theorem bvc : Statement .bvc := ⟨rfl, rfl⟩
theorem eorIzy : Statement .eorIzy := ⟨rfl, rfl⟩
theorem unk52 : Statement .unk52 := ⟨rfl, rfl⟩
theorem sreIzy : Statement .sreIzy := ⟨rfl, rfl⟩
theorem nopZpx54 : Statement .nopZpx54 := ⟨rfl, rfl⟩
theorem eorZpx : Statement .eorZpx := ⟨rfl, rfl⟩
theorem lsrZpx : Statement .lsrZpx := ⟨rfl, rfl⟩
theorem sreZpx : Statement .sreZpx := ⟨rfl, rfl⟩
theorem cli : Statement .cli := ⟨rfl, rfl⟩
theorem eorAby : Statement .eorAby := ⟨rfl, rfl⟩
theorem nopImp5A : Statement .nopImp5A := ⟨rfl, rfl⟩
theorem sreAby : Statement .sreAby := ⟨rfl, rfl⟩
theorem nopAbx5C : Statement .nopAbx5C := ⟨rfl, rfl⟩
theorem eorAbx : Statement .eorAbx := ⟨rfl, rfl⟩
theorem lsrAbx : Statement .lsrAbx := ⟨rfl, rfl⟩
theorem sreAbx : Statement .sreAbx := ⟨rfl, rfl⟩
theorem rts : Statement .rts := ⟨rfl, rfl⟩
theorem adcIzx : Statement .adcIzx := ⟨rfl, rfl⟩
theorem unk62 : Statement .unk62 := ⟨rfl, rfl⟩
theorem rraIzx : Statement .rraIzx := ⟨rfl, rfl⟩
theorem nopZp64 : Statement .nopZp64 := ⟨rfl, rfl⟩
theorem adcZp : Statement .adcZp := ⟨rfl, rfl⟩
theorem rorZp : Statement .rorZp := ⟨rfl, rfl⟩
theorem rraZp : Statement .rraZp := ⟨rfl, rfl⟩
theorem pla : Statement .pla := ⟨rfl, rfl⟩
theorem adcImm : Statement .adcImm := ⟨rfl, rfl⟩
theorem rorAcc : Statement .rorAcc := ⟨rfl, rfl⟩
theorem arrImm : Statement .arrImm := ⟨rfl, rfl⟩
theorem jmpInd : Statement .jmpInd := ⟨rfl, rfl⟩
theorem adcAbs : Statement .adcAbs := ⟨rfl, rfl⟩
theorem rorAbs : Statement .rorAbs := ⟨rfl, rfl⟩
theorem rraAbs : Statement .rraAbs := ⟨rfl, rfl⟩
theorem bvs : Statement .bvs := ⟨rfl, rfl⟩
theorem adcIzy : Statement .adcIzy := ⟨rfl, rfl⟩
theorem unk72 : Statement .unk72 := ⟨rfl, rfl⟩
theorem rraIzy : Statement .rraIzy := ⟨rfl, rfl⟩
theorem nopZpx74 : Statement .nopZpx74 := ⟨rfl, rfl⟩
theorem adcZpx : Statement .adcZpx := ⟨rfl, rfl⟩
theorem rorZpx : Statement .rorZpx := ⟨rfl, rfl⟩
theorem rraZpx : Statement .rraZpx := ⟨rfl, rfl⟩
theorem sei : Statement .sei := ⟨rfl, rfl⟩
theorem adcAby : Statement .adcAby := ⟨rfl, rfl⟩
theorem nopImp7A : Statement .nopImp7A := ⟨rfl, rfl⟩
theorem rraAby : Statement .rraAby := ⟨rfl, rfl⟩
theorem nopAbx7C : Statement .nopAbx7C := ⟨rfl, rfl⟩
theorem adcAbx : Statement .adcAbx := ⟨rfl, rfl⟩
theorem rorAbx : Statement .rorAbx := ⟨rfl, rfl⟩
theorem rraAbx : Statement .rraAbx := ⟨rfl, rfl⟩
theorem nopImm80 : Statement .nopImm80 := ⟨rfl, rfl⟩
theorem staIzx : Statement .staIzx := ⟨rfl, rfl⟩
theorem nopImm82 : Statement .nopImm82 := ⟨rfl, rfl⟩
theorem saxIzx : Statement .saxIzx := ⟨rfl, rfl⟩
theorem styZp : Statement .styZp := ⟨rfl, rfl⟩
theorem staZp : Statement .staZp := ⟨rfl, rfl⟩
theorem stxZp : Statement .stxZp := ⟨rfl, rfl⟩
theorem saxZp : Statement .saxZp := ⟨rfl, rfl⟩
theorem dey : Statement .dey := ⟨rfl, rfl⟩
theorem nopImm89 : Statement .nopImm89 := ⟨rfl, rfl⟩
theorem txa : Statement .txa := ⟨rfl, rfl⟩
theorem unk8B : Statement .unk8B := ⟨rfl, rfl⟩
theorem styAbs : Statement .styAbs := ⟨rfl, rfl⟩
theorem staAbs : Statement .staAbs := ⟨rfl, rfl⟩
theorem stxAbs : Statement .stxAbs := ⟨rfl, rfl⟩
theorem saxAbs : Statement .saxAbs := ⟨rfl, rfl⟩
theorem bcc : Statement .bcc := ⟨rfl, rfl⟩
theorem staIzy : Statement .staIzy := ⟨rfl, rfl⟩
theorem unk92 : Statement .unk92 := ⟨rfl, rfl⟩
theorem unk93 : Statement .unk93 := ⟨rfl, rfl⟩
theorem styZpx : Statement .styZpx := ⟨rfl, rfl⟩
theorem staZpx : Statement .staZpx := ⟨rfl, rfl⟩
theorem stxZpy : Statement .stxZpy := ⟨rfl, rfl⟩
theorem saxZpy : Statement .saxZpy := ⟨rfl, rfl⟩
theorem tya : Statement .tya := ⟨rfl, rfl⟩
theorem staAby : Statement .staAby := ⟨rfl, rfl⟩
theorem txs : Statement .txs := ⟨rfl, rfl⟩
theorem unk9B : Statement .unk9B := ⟨rfl, rfl⟩
theorem unk9C : Statement .unk9C := ⟨rfl, rfl⟩
theorem staAbx : Statement .staAbx := ⟨rfl, rfl⟩
theorem unk9E : Statement .unk9E := ⟨rfl, rfl⟩
theorem unk9F : Statement .unk9F := ⟨rfl, rfl⟩
theorem ldyImm : Statement .ldyImm := ⟨rfl, rfl⟩
theorem ldaIzx : Statement .ldaIzx := ⟨rfl, rfl⟩
theorem ldxImm : Statement .ldxImm := ⟨rfl, rfl⟩
theorem laxIzx : Statement .laxIzx := ⟨rfl, rfl⟩
theorem ldyZp : Statement .ldyZp := ⟨rfl, rfl⟩
theorem ldaZp : Statement .ldaZp := ⟨rfl, rfl⟩
theorem ldxZp : Statement .ldxZp := ⟨rfl, rfl⟩
theorem laxZp : Statement .laxZp := ⟨rfl, rfl⟩
theorem tay : Statement .tay := ⟨rfl, rfl⟩
theorem ldaImm : Statement .ldaImm := ⟨rfl, rfl⟩
theorem tax : Statement .tax := ⟨rfl, rfl⟩
theorem unkAB : Statement .unkAB := ⟨rfl, rfl⟩
theorem ldyAbs : Statement .ldyAbs := ⟨rfl, rfl⟩
theorem ldaAbs : Statement .ldaAbs := ⟨rfl, rfl⟩
theorem ldxAbs : Statement .ldxAbs := ⟨rfl, rfl⟩
theorem laxAbs : Statement .laxAbs := ⟨rfl, rfl⟩
theorem bcs : Statement .bcs := ⟨rfl, rfl⟩
theorem ldaIzy : Statement .ldaIzy := ⟨rfl, rfl⟩
theorem unkB2 : Statement .unkB2 := ⟨rfl, rfl⟩
theorem laxIzy : Statement .laxIzy := ⟨rfl, rfl⟩
theorem ldyZpx : Statement .ldyZpx := ⟨rfl, rfl⟩
theorem ldaZpx : Statement .ldaZpx := ⟨rfl, rfl⟩
theorem ldxZpy : Statement .ldxZpy := ⟨rfl, rfl⟩
theorem laxZpy : Statement .laxZpy := ⟨rfl, rfl⟩
theorem clv : Statement .clv := ⟨rfl, rfl⟩
theorem ldaAby : Statement .ldaAby := ⟨rfl, rfl⟩
theorem tsx : Statement .tsx := ⟨rfl, rfl⟩
theorem lasAby : Statement .lasAby := ⟨rfl, rfl⟩
theorem ldyAbx : Statement .ldyAbx := ⟨rfl, rfl⟩
theorem ldaAbx : Statement .ldaAbx := ⟨rfl, rfl⟩
theorem ldxAby : Statement .ldxAby := ⟨rfl, rfl⟩
theorem laxAby : Statement .laxAby := ⟨rfl, rfl⟩
theorem cpyImm : Statement .cpyImm := ⟨rfl, rfl⟩
theorem cmpIzx : Statement .cmpIzx := ⟨rfl, rfl⟩
theorem nopImmC2 : Statement .nopImmC2 := ⟨rfl, rfl⟩
theorem dcpIzx : Statement .dcpIzx := ⟨rfl, rfl⟩
theorem cpyZp : Statement .cpyZp := ⟨rfl, rfl⟩
theorem cmpZp : Statement .cmpZp := ⟨rfl, rfl⟩
theorem decZp : Statement .decZp := ⟨rfl, rfl⟩
theorem dcpZp : Statement .dcpZp := ⟨rfl, rfl⟩
theorem iny : Statement .iny := ⟨rfl, rfl⟩
theorem cmpImm : Statement .cmpImm := ⟨rfl, rfl⟩
theorem dex : Statement .dex := ⟨rfl, rfl⟩
theorem axsImm : Statement .axsImm := ⟨rfl, rfl⟩
theorem cpyAbs : Statement .cpyAbs := ⟨rfl, rfl⟩
theorem cmpAbs : Statement .cmpAbs := ⟨rfl, rfl⟩
theorem decAbs : Statement .decAbs := ⟨rfl, rfl⟩
theorem dcpAbs : Statement .dcpAbs := ⟨rfl, rfl⟩
theorem bne : Statement .bne := ⟨rfl, rfl⟩
theorem cmpIzy : Statement .cmpIzy := ⟨rfl, rfl⟩
theorem unkD2 : Statement .unkD2 := ⟨rfl, rfl⟩
theorem dcpIzy : Statement .dcpIzy := ⟨rfl, rfl⟩
theorem nopZpxD4 : Statement .nopZpxD4 := ⟨rfl, rfl⟩
theorem cmpZpx : Statement .cmpZpx := ⟨rfl, rfl⟩
theorem decZpx : Statement .decZpx := ⟨rfl, rfl⟩
theorem dcpZpx : Statement .dcpZpx := ⟨rfl, rfl⟩
theorem cld : Statement .cld := ⟨rfl, rfl⟩
theorem cmpAby : Statement .cmpAby := ⟨rfl, rfl⟩
theorem nopImpDA : Statement .nopImpDA := ⟨rfl, rfl⟩
theorem dcpAby : Statement .dcpAby := ⟨rfl, rfl⟩
theorem nopAbxDC : Statement .nopAbxDC := ⟨rfl, rfl⟩
theorem cmpAbx : Statement .cmpAbx := ⟨rfl, rfl⟩
theorem decAbx : Statement .decAbx := ⟨rfl, rfl⟩
theorem dcpAbx : Statement .dcpAbx := ⟨rfl, rfl⟩
theorem cpxImm : Statement .cpxImm := ⟨rfl, rfl⟩
theorem sbcIzx : Statement .sbcIzx := ⟨rfl, rfl⟩
theorem nopImmE2 : Statement .nopImmE2 := ⟨rfl, rfl⟩
theorem iscIzx : Statement .iscIzx := ⟨rfl, rfl⟩
theorem cpxZp : Statement .cpxZp := ⟨rfl, rfl⟩
theorem sbcZp : Statement .sbcZp := ⟨rfl, rfl⟩
theorem incZp : Statement .incZp := ⟨rfl, rfl⟩
theorem iscZp : Statement .iscZp := ⟨rfl, rfl⟩
theorem inx : Statement .inx := ⟨rfl, rfl⟩
theorem sbcImm : Statement .sbcImm := ⟨rfl, rfl⟩
theorem nop : Statement .nop := ⟨rfl, rfl⟩
theorem sbcImmEB : Statement .sbcImmEB := ⟨rfl, rfl⟩
theorem cpxAbs : Statement .cpxAbs := ⟨rfl, rfl⟩
theorem sbcAbs : Statement .sbcAbs := ⟨rfl, rfl⟩
theorem incAbs : Statement .incAbs := ⟨rfl, rfl⟩
theorem iscAbs : Statement .iscAbs := ⟨rfl, rfl⟩
theorem beq : Statement .beq := ⟨rfl, rfl⟩
theorem sbcIzy : Statement .sbcIzy := ⟨rfl, rfl⟩
theorem unkF2 : Statement .unkF2 := ⟨rfl, rfl⟩
theorem iscIzy : Statement .iscIzy := ⟨rfl, rfl⟩
theorem nopZpxF4 : Statement .nopZpxF4 := ⟨rfl, rfl⟩
theorem sbcZpx : Statement .sbcZpx := ⟨rfl, rfl⟩
theorem incZpx : Statement .incZpx := ⟨rfl, rfl⟩
theorem iscZpx : Statement .iscZpx := ⟨rfl, rfl⟩
theorem sed : Statement .sed := ⟨rfl, rfl⟩
theorem sbcAby : Statement .sbcAby := ⟨rfl, rfl⟩
theorem nopImpFA : Statement .nopImpFA := ⟨rfl, rfl⟩
theorem iscAby : Statement .iscAby := ⟨rfl, rfl⟩
theorem nopAbxFC : Statement .nopAbxFC := ⟨rfl, rfl⟩
theorem sbcAbx : Statement .sbcAbx := ⟨rfl, rfl⟩
theorem incAbx : Statement .incAbx := ⟨rfl, rfl⟩
theorem iscAbx : Statement .iscAbx := ⟨rfl, rfl⟩

end Sys2Proof.Laws.Coded
end

