-- ==== Sys2Proof/Laws/Settle.lean ====
section
/-! SUPPORT. What a settle computes: its passes over the worklist, and what committing a value to a group changes
(40_switch_network.md R125 to R127, R131). -/

namespace Sys2Proof.Machine

/-! ### The rounds of a settle -/

theorem Round.turn_nil (sim : SimState) : Round.turn { sim := sim, next := [] } = { sim := sim, next := [] } := rfl

theorem Round.turn_iterate_nil (k : Nat) (sim : SimState) :
    Round.turn^[k] { sim := sim, next := [] } = { sim := sim, next := [] } :=
  Function.iterate_fixed (Round.turn_nil sim) k

/-- The rounds of a settle are passes over the worklist, and it fails exactly when the cap's last pass leaves one (R125,
R126). -/
theorem settleRounds_eq (cap : Nat) (sim : SimState) (cur : List Nat) :
    SimState.settleRounds cap sim cur =
      (let last := Round.turn^[cap] { sim := sim, next := cur }
       if last.next = [] then .ok last.sim else .error .nonConvergence) := by
  induction cap generalizing sim cur with
  | zero => cases cur <;> rfl
  | succ cap ih =>
    cases cur with
    | nil => simp only [Round.turn_iterate_nil, if_true]; rfl
    | cons n cur => simp only [Function.iterate_succ_apply]; exact ih ..

/-- The round count is that of the passes over a worklist that is not empty. -/
theorem roundCount_spec (cap : Nat) (sim : SimState) (cur : List Nat) :
    SimState.roundCount cap sim cur ≤ cap ∧
      Round.turn^[SimState.roundCount cap sim cur] { sim := sim, next := cur } = Round.turn^[cap] { sim := sim, next := cur } ∧
      ∀ k, k < SimState.roundCount cap sim cur → (Round.turn^[k] { sim := sim, next := cur }).next ≠ [] := by
  induction cap generalizing sim cur with
  | zero => cases cur <;> exact ⟨Nat.le_refl _, rfl, fun k hk => absurd hk (Nat.not_lt_zero k)⟩
  | succ cap ih =>
    cases cur with
    | nil =>
      refine ⟨Nat.zero_le _, ?_, fun k hk => absurd hk (Nat.not_lt_zero k)⟩
      rw [Round.turn_iterate_nil, Round.turn_iterate_nil]
    | cons n cur =>
      obtain ⟨h1, h2, h3⟩ := ih (sim.round (n :: cur)).sim (sim.round (n :: cur)).next
      have e : SimState.roundCount (cap + 1) sim (n :: cur) =
        SimState.roundCount cap (sim.round (n :: cur)).sim (sim.round (n :: cur)).next + 1 := rfl
      rw [e]
      refine ⟨Nat.succ_le_succ h1, by rw [Function.iterate_succ_apply, Function.iterate_succ_apply]; exact h2, fun k hk => ?_⟩
      cases k with
      | zero => simp
      | succ k => rw [Function.iterate_succ_apply]; exact h3 k (by omega)

/-- `enqueue` adds a node that is no rail and not there yet, and nothing else (R125). -/
theorem enqueue_spec (sim : SimState) (l : List Nat) (n : Nat) :
    (∃ more, sim.enqueue l n = l ++ more) ∧ (l.Nodup → (sim.enqueue l n).Nodup) ∧
      ∀ m, m ∈ sim.enqueue l n ↔ m ∈ l ∨ m = n ∧ sim.isRail n = false := by
  unfold SimState.enqueue
  split
  · rename_i h
    refine ⟨⟨[], by simp⟩, id, fun m => ⟨.inl, ?_⟩⟩
    rintro (h' | ⟨rfl, h'⟩)
    · exact h'
    · simpa [h'] using h
  · rename_i h
    simp only [Bool.or_eq_true, List.contains_iff_mem, not_or, Bool.not_eq_true] at h
    refine ⟨⟨_, rfl⟩, fun hl => ?_, fun m => by simp [h.2]⟩
    rw [List.nodup_append]
    exact ⟨hl, by simp, by rintro a ha b hb rfl; simp at hb; exact h.1 (hb ▸ ha)⟩

/-- The seeds' worklist: the seeds in order, without duplicates or rails (R125, D23). -/
theorem seedList_spec (sim : SimState) (seeds : List Nat) :
    (sim.seedList seeds).Sublist seeds ∧ (sim.seedList seeds).Nodup ∧
      ∀ m, m ∈ sim.seedList seeds ↔ m ∈ seeds ∧ sim.isRail m = false := by
  have key : ∀ (l acc : List Nat), acc.Nodup → (l.foldl sim.enqueue acc).Sublist (acc ++ l) ∧ (l.foldl sim.enqueue acc).Nodup ∧
      ∀ m, m ∈ l.foldl sim.enqueue acc ↔ m ∈ acc ∨ m ∈ l ∧ sim.isRail m = false := by
    intro l
    induction l with
    | nil => intro acc h; exact ⟨by simp, h, by simp⟩
    | cons n l ih =>
      intro acc h
      obtain ⟨-, e2, e3⟩ := enqueue_spec sim acc n
      obtain ⟨i1, i2, i3⟩ := ih (sim.enqueue acc n) (e2 h)
      refine ⟨i1.trans ?_, i2, fun m => ?_⟩
      · unfold SimState.enqueue
        split <;> simp
      · rw [List.foldl_cons, i3, e3, List.mem_cons]
        constructor
        · rintro ((h | ⟨rfl, h⟩) | ⟨h, h'⟩)
          · exact .inl h
          · exact .inr ⟨.inl rfl, h⟩
          · exact .inr ⟨.inr h, h'⟩
        · rintro (h | ⟨rfl | h, h'⟩)
          · exact .inl (.inl h)
          · exact .inl (.inr ⟨rfl, h'⟩)
          · exact .inr ⟨h, h'⟩
  obtain ⟨a, b, c⟩ := key seeds [] List.nodup_nil
  exact ⟨by simpa [SimState.seedList] using a, b, by simpa [SimState.seedList] using c⟩

/-- Switching a list of transistors enqueues both ends of each (R131). -/
theorem switchAll_next (v : Bool) (l : List Nat) (r : Round) :
    (∃ more, (l.foldl (Round.switch v) r).next = r.next ++ more) ∧
      (r.next.Nodup → (l.foldl (Round.switch v) r).next.Nodup) ∧
      ∀ m, m ∈ (l.foldl (Round.switch v) r).next ↔ m ∈ r.next ∨
        r.sim.isRail m = false ∧ ∃ t ∈ l, (r.sim.trans t).t1 = m ∨ (r.sim.trans t).t2 = m := by
  induction l generalizing r with
  | nil => exact ⟨⟨[], by simp⟩, id, by simp⟩
  | cons t l ih =>
    obtain ⟨⟨m1, i1⟩, i2, i3⟩ := ih (r.switch v t)
    have hk := (setOn_kept r.sim t v).circuit
    obtain ⟨⟨m2, a1⟩, a2, a3⟩ := enqueue_spec (r.sim.setOn t v) r.next ((r.sim.setOn t v).trans t).t1
    obtain ⟨⟨m3, b1⟩, b2, b3⟩ := enqueue_spec (r.sim.setOn t v)
      ((r.sim.setOn t v).enqueue r.next ((r.sim.setOn t v).trans t).t1) ((r.sim.setOn t v).trans t).t2
    have e : (r.switch v t).next = (r.sim.setOn t v).enqueue ((r.sim.setOn t v).enqueue r.next ((r.sim.setOn t v).trans t).t1)
      ((r.sim.setOn t v).trans t).t2 := rfl
    refine ⟨⟨m2 ++ m3 ++ m1, ?_⟩, fun h => i2 ?_, fun m => ?_⟩
    · rw [List.foldl_cons, i1, e, b1, a1]; simp
    · rw [e]; exact b2 (a2 h)
    · have hc := hk.2.2.2.2.2.2
      have es : (r.switch v t).sim = r.sim.setOn t v := rfl
      rw [List.foldl_cons, i3, e, b3, a3, es]
      simp only [hk.isRail, (hc _).2.2.1, (hc _).2.2.2, List.mem_cons, exists_eq_or_imp]
      constructor
      · rintro ((((h | ⟨rfl, h⟩) | ⟨rfl, h⟩)) | ⟨h, h'⟩)
        · exact .inl h
        · exact .inr ⟨h, .inl (.inl rfl)⟩
        · exact .inr ⟨h, .inl (.inr rfl)⟩
        · exact .inr ⟨h, .inr h'⟩
      · rintro (h | ⟨h, (rfl | rfl) | h'⟩)
        · exact .inl (.inl (.inl h))
        · exact .inl (.inl (.inr ⟨rfl, h⟩))
        · exact .inl (.inr ⟨rfl, h⟩)
        · exact .inr ⟨h, h'⟩

/-- What committing a value to the nodes of a group does to their states and to the next worklist (R131). -/
structure Committed (v : Bool) (l : List Nat) (r r' : Round) : Prop where
  state : ∀ m, (r'.sim.node m).state = if m ∈ l ∧ r.sim.isRail m = false then v else (r.sim.node m).state
  more : ∃ more, r'.next = r.next ++ more
  nodup : r.next.Nodup → r'.next.Nodup
  next : ∀ m, m ∈ r'.next ↔ m ∈ r.next ∨ r.sim.isRail m = false ∧ ∃ t, t < r.sim.transistors.length ∧
    r.sim.Switched l v t ∧ ((r.sim.trans t).t1 = m ∨ (r.sim.trans t).t2 = m)

theorem updateNode_committed {v : Bool} {r : Round} {g : Nat} (h : Conductive r.sim) (hg : g < r.sim.nodes.length) :
    Committed v [g] r (r.updateNode v g) := by
  unfold Round.updateNode
  split
  · rename_i hr
    refine ⟨fun m => ?_, ⟨[], by simp⟩, id, fun m => ⟨.inl, ?_⟩⟩
    · split
      · rename_i hm; simp at hm; rw [hm.1, hr] at hm; cases hm.2
      · rfl
    · rintro (h' | ⟨-, t, -, ⟨h1, h2, -⟩, -⟩)
      · exact h'
      · simp at h1; rw [h1, hr] at h2; cases h2
  · rename_i hr
    simp only [Bool.not_eq_true] at hr
    split
    · rename_i hv
      simp only [beq_iff_eq] at hv
      refine ⟨fun m => ?_, ⟨[], by simp⟩, id, fun m => ⟨.inl, ?_⟩⟩
      · split
        · rename_i hm; simp at hm; rw [hm.1, hv]
        · rfl
      · rintro (h' | ⟨-, t, -, ⟨h1, -, h3⟩, -⟩)
        · exact h'
        · simp at h1; rw [h1] at h3; exact absurd hv h3
    · rename_i hv
      simp only [beq_iff_eq] at hv
      obtain ⟨a1, a2, a3⟩ := switchAll_next v (r.sim.node g).gates { r with sim := r.sim.setState g v }
      have hk := (setState_kept r.sim g v).circuit
      refine ⟨fun m => ?_, a1, a2, fun m => ?_⟩
      · have : ∀ n, (List.foldl (Round.switch v) { r with sim := r.sim.setState g v } (r.sim.node g).gates).sim.node n
            = (r.sim.setState g v).node n := by intro n; simp only [SimState.node, switchAll_nodes]
        rw [this, SimState.node_setState]
        by_cases e : m = g
        · subst e; simp [hg, hr]
        · have e' : ¬ g = m := fun x => e x.symm
          simp [e, e']
      · rw [a3]
        simp only [hk.isRail, SimState.trans_setState]
        refine or_congr_right (and_congr_right fun hm => ⟨?_, ?_⟩)
        · rintro ⟨t, ht, h'⟩
          obtain ⟨b1, b2⟩ := h.2.2.2.2.2.2.1 g t ht
          exact ⟨t, b1, ⟨by simp [b2], by rw [b2]; exact hr, by rw [b2]; exact hv⟩, h'⟩
        · rintro ⟨t, ht, ⟨h1, -, -⟩, h'⟩
          simp only [List.mem_singleton] at h1
          exact ⟨t, h1 ▸ (h.2.2.2.2.2.1 t ht).2.2.2.2.1, h'⟩

theorem foldl_committed {v : Bool} (l : List Nat) (r : Round) (h : Conductive r.sim) (hn : l.Nodup)
    (hl : ∀ g ∈ l, g < r.sim.nodes.length) : Committed v l r (l.foldl (Round.updateNode v) r) := by
  induction l generalizing r with
  | nil => exact ⟨by simp, ⟨[], by simp⟩, id, by simp [SimState.Switched]⟩
  | cons g l ih =>
    rw [List.nodup_cons] at hn
    have c1 := updateNode_committed (v := v) h (hl g (by simp))
    have k := (updateNode_kept v r g).circuit
    have c2 := ih (r.updateNode v g) (updateNode_conductive h) hn.2 (fun x hx => by rw [k.2.2.2.1]; exact hl x (by simp [hx]))
    obtain ⟨m1, e1⟩ := c1.more
    obtain ⟨m2, e2⟩ := c2.more
    refine ⟨fun m => ?_, ⟨m1 ++ m2, by rw [List.foldl_cons, e2, e1, List.append_assoc]⟩, fun x => c2.nodup (c1.nodup x),
      fun m => ?_⟩
    · rw [List.foldl_cons, c2.state, c1.state, k.isRail]
      by_cases hm : m = g
      · subst hm; simp [hn.1]
      · simp [hm]
    · rw [List.foldl_cons, c2.next, c1.next, k.isRail, k.2.2.2.2.1, or_assoc, ← and_or_left]
      refine or_congr_right (and_congr_right fun _ => ?_)
      rw [← exists_or]
      refine exists_congr fun t => ?_
      rw [← and_or_left]
      refine and_congr_right fun _ => ?_
      have kt := k.2.2.2.2.2.2 t
      rw [kt.2.2.1, kt.2.2.2, ← or_and_right]
      refine and_congr_left fun _ => ?_
      unfold SimState.Switched
      rw [kt.2.1, k.isRail, c1.state]
      by_cases hg : (r.sim.trans t).gate = g
      · simp [hg, hn.1]
      · simp [hg]

end Sys2Proof.Machine
end

