-- ==== Sys2Proof/Laws/Traces.lean ====
section
/-! SUPPORT. How many cycles each sequence takes and what it puts on the bus (41_sequencer.md R180 to R208): running a queue
on a full bus with its accesses noted, one lemma per access class, and what that says of `Clock()`. -/

set_option linter.unusedSimpArgs false

namespace Sys2Proof.Machine

/-- One operation on a full bus (R62, R170). -/
def opStep (mode : DecimalMode) (op : MicroOp) (st : SeqState) : SeqState :=
  match op.request mode st with
  | .idle => op.effect mode 0 st
  | .read a => op.effect mode (st.peek a) st
  | .write a v => op.effect mode v (st.poke a v)

theorem runOp_eq_opStep {p : Params} (hp : p.busSize = 65536) (op : MicroOp) (st : SeqState) :
    runOp p op st = .ok (opStep p.decimalMode op st) := by
  rw [runOp_full hp]
  unfold opStep
  cases op.request p.decimalMode st <;> rfl

/-- Run exactly `n` operations, none of them free, and note their bus accesses; `none` where the queue holds no such
operation before then. -/
def drive (mode : DecimalMode) : Nat → SeqState → Option (List BusAccess × SeqState)
  | 0, st => some ([], st)
  | n + 1, st =>
    match st.q with
    | [] => none
    | op :: rest =>
      if op.isFree then none
      else
        match drive mode n (opStep mode op { st with q := rest }) with
        | some r => some (((op.request mode { st with q := rest }).access { st with q := rest }).toList ++ r.1, r.2)
        | none => none

/-- From `st` the queue comes to its end after exactly `n` operations, which make the accesses `tr`. -/
def Drives (mode : DecimalMode) (st : SeqState) (n : Nat) (tr : List BusAccess) : Prop :=
  ∃ st', drive mode n st = some (tr, st') ∧ (st'.q = [] ∨ st'.q = [.setPcAd])

theorem Drives.of {mode : DecimalMode} {st st' : SeqState} {n : Nat} {tr tr' : List BusAccess}
    (h : drive mode n st = some (tr', st')) (ht : tr' = tr) (hq : st'.q = [] ∨ st'.q = [.setPcAd]) :
    Drives mode st n tr := ⟨st', ht ▸ h, hq⟩

/-- What driving a queue says of `finish` and of `Clock()`. -/
theorem drive_eq {p : Params} (hp : p.busSize = 65536) : ∀ (n : Nat) {st st' : SeqState} {tr : List BusAccess},
    drive p.decimalMode n st = some (tr, st') → st.nmiPrev = st.nmiLine →
      st.clocks p n = .ok st' ∧ st.busTrace p n = tr ∧
        ∀ m, (st'.q = [] ∨ st'.q = [.setPcAd]) → finish p (n + m) st = .ok st' := by
  intro n
  induction n with
  | zero =>
    intro st st' tr h hl
    cases h
    refine ⟨rfl, rfl, fun m hq => ?_⟩
    cases m with
    | zero => rfl
    | succ m => rcases hq with hq | hq <;> simp [finish, hq, MicroOp.isFree]
  | succ n ih =>
    intro st st' tr h hl
    unfold drive at h
    split at h
    · cases h
    · rename_i op rest hq
      split at h
      · cases h
      · rename_i hf
        have hf' : op.isFree = false := by simpa using hf
        split at h
        · rename_i r hr
          cases h
          have h1 := runOp_eq_opStep hp op { st with q := rest }
          obtain ⟨-, ⟨-, a2, a3, -⟩, -, -⟩ := runOp_frame h1
          obtain ⟨i1, i2, i3⟩ := ih hr (by rw [a2, a3]; exact hl)
          have hc : st.clock p = .ok (opStep p.decimalMode op { st with q := rest }) := by
            rw [SeqState.clock_cons hq hf', SeqState.sampleNmi_of_seen hl, h1]
          have hb : st.busAccess p = (op.request p.decimalMode { st with q := rest }).access { st with q := rest } := by
            simp only [SeqState.busAccess, SeqState.ready_cons hq hf', SeqState.sampleNmi_of_seen hl, hq]
          refine ⟨?_, ?_, fun m hend => ?_⟩
          · rw [SeqState.clocks, hc]; exact i1
          · rw [SeqState.busTrace, hc]
            simp only [hb, i2]
          · rw [show n + 1 + m = (n + m) + 1 by omega, finish_cons (n + m) hq hf' h1]
            exact i3 m hend
        · cases h

/-- An instruction from its opcode fetch: the fetch is the first cycle and the first access. -/
theorem drives_instruction {s : State} (hb : FullBus s) (hh : s.host = []) (hi : s.seq.Idle) {ops : List MicroOp} {n : Nat}
    {tr : List BusAccess} (hs : rowSequence (decodeOpcode (s.seq.peek s.seq.pc)).row = some (.opc :: ops))
    (hn : n ≤ ops.length)
    (hd : Drives s.params.decimalMode { s.seq.sampleNmi with pc := s.seq.pc + 1, q := ops } n tr) :
    s.seq.busTrace s.params (n + 1) = s.seq.readOf s.seq.pc :: tr ∧
      ∃ st, s.seq.clocks s.params (n + 1) = .ok st ∧ step s = .next (s.setSeq st) := by
  obtain ⟨hq, hp, hl, hirq⟩ := hi
  obtain ⟨st', hd, hend⟩ := hd
  have hr : s.seq.ready = s.seq.sampleNmi := SeqState.ready_nil hq
  have hrq : s.seq.ready.q = [] := by rw [hr]; exact hq
  have hpend : s.seq.ready.nmiPending = false := by
    rw [hr]; simp only [SeqState.sampleNmi, hp]
    cases h : s.seq.nmiLine <;> simp [hl, h]
  have hpoll : s.seq.ready.poll = .opcode := poll_opcode hpend (by simpa using hirq)
  have hpc : s.seq.ready.pc = s.seq.pc := by rw [hr]; rfl
  have hdec : decodeSequence (s.seq.peek s.seq.ready.pc) = .ok (.opc :: ops) := by rw [hpc, decodeSequence, hs]
  have hclk := SeqState.clock_fetch hb hrq hpoll hdec
  rw [hpc, hr] at hclk
  obtain ⟨h1, h2, h3⟩ := drive_eq hb n hd rfl
  have hacc : s.seq.busAccess s.params = some (s.seq.readOf s.seq.pc) := by
    simp only [SeqState.busAccess, hrq, hpc, SeqState.readOf]
    rw [SeqState.peek_congr s.seq.ready_mem]
  refine ⟨?_, st', ?_, ?_⟩
  · rw [SeqState.busTrace, hclk]
    simp only [hacc, h2, Option.toList_some, List.singleton_append]
  · rw [SeqState.clocks, hclk]
    exact h1
  · have hlt : s.seq.ready.pc.toNat < s.params.busSize := by
      have := s.seq.ready.pc.isLt
      unfold FullBus at hb; omega
    have hfetch : runOp s.params .opc { s.seq.sampleNmi with q := ops } =
        .ok { s.seq.sampleNmi with pc := s.seq.pc + 1, q := ops } := by
      simp [runOp_full hb, MicroOp.request, MicroOp.effect, SeqState.sampleNmi]
    rw [step_instruction hh hrq hpoll hlt, hpc, exec_of_rowSequence hs, runInstr, runSequence]
    simp only [State.setSeq_seq, State.setSeq_params, List.length_cons, hr]
    rw [finish_cons (st := { s.seq.sampleNmi with q := .opc :: ops }) (op := .opc) (rest := ops) _ rfl rfl hfetch]
    obtain ⟨m, hm⟩ := Nat.exists_eq_add_of_le hn
    rw [hm, h3 m hend]
    rfl

/-! ### The sequences -/

/-- The byte an rmw effect writes back depends on the registers alone (R174). -/
theorem RmwFn.apply_v_congr (st : SeqState) {st' : SeqState} (mode : DecimalMode) (e : RmwFn) (m : Byte)
    (ha : st'.a = st.a) (hp : st'.p = st.p) : (e.apply mode m st').v = (e.apply mode m st).v :=
  (RmwFn.apply_congr mode e m ha hp).1

/-- Cycles of a read-class form before a penalty (R181, R182, R185, R188, R192, R195, R198). -/
def readCycles : Format → Nat
  | .imp | .acc | .ind | .rel => 0
  | .imm => 2
  | .zp => 3
  | .zpx | .zpy | .abs | .abx | .aby => 4
  | .izx => 6
  | .izy => 5

/-- Cycles of a write-class form (R183, R186, R189, R193, R196, R199). -/
def writeCycles : Format → Nat
  | .imp | .acc | .ind | .rel | .imm => 0
  | .zp => 3
  | .zpx | .zpy | .abs => 4
  | .abx | .aby => 5
  | .izx | .izy => 6

/-- Read class (R181, R182, R185, R188, R192, R195, R198). -/
theorem drives_read {mode : DecimalMode} {f : Format} {e : ReadFn} {ops : List MicroOp}
    (hs : readSequence f e = some (.opc :: ops)) {a : Addr} (st : SeqState) (ha : operandAddr f st = some a) :
    readCycles f - 1 + bit (indexCarries f st) ≤ ops.length ∧
      Drives mode { st with pc := st.pc + 1, q := ops } (readCycles f - 1 + bit (indexCarries f st)) (formTrace f false st ++ [st.readOf a]).tail := by
  cases f <;> simp only [readSequence, reduceCtorEq, Option.some.injEq] at hs <;>
    simp only [operandAddr, Option.some.injEq] at ha <;> subst ha <;> cases hs
  case imm =>
    refine ⟨by simp [readCycles, indexCarries, bit], ?_⟩
    simp [Drives, readCycles, indexCarries, bit, opStep, MicroOp.request, MicroOp.effect, BusRequest.access, SeqState.peek, SeqState.readOf, LatchPair.addr,
      LatchPair.indexedAddr, LatchPair.hi, LatchPair.lo, LatchPair.setLo, LatchPair.setHi, IndexReg.get, SeqState.operandWord,
      SeqState.operand1, SeqState.operand2, SeqState.zpPointer, applyRead, zeroPageAddr, formTrace, drive, MicroOp.isFree,
      BitVec.add_assoc, -BitVec.toNat_add, SeqState.dropNext, SeqState.poke]
  case zp =>
    refine ⟨by simp [readCycles, indexCarries, bit], ?_⟩
    simp [Drives, readCycles, indexCarries, bit, opStep, MicroOp.request, MicroOp.effect, BusRequest.access, SeqState.peek, SeqState.readOf, LatchPair.addr,
      LatchPair.indexedAddr, LatchPair.hi, LatchPair.lo, LatchPair.setLo, LatchPair.setHi, IndexReg.get, SeqState.operandWord,
      SeqState.operand1, SeqState.operand2, SeqState.zpPointer, applyRead, zeroPageAddr, formTrace, drive, MicroOp.isFree,
      BitVec.add_assoc, -BitVec.toNat_add, SeqState.dropNext, SeqState.poke]
  case zpx =>
    refine ⟨by simp [readCycles, indexCarries, bit], ?_⟩
    simp [Drives, readCycles, indexCarries, bit, opStep, MicroOp.request, MicroOp.effect, BusRequest.access, SeqState.peek, SeqState.readOf, LatchPair.addr,
      LatchPair.indexedAddr, LatchPair.hi, LatchPair.lo, LatchPair.setLo, LatchPair.setHi, IndexReg.get, SeqState.operandWord,
      SeqState.operand1, SeqState.operand2, SeqState.zpPointer, applyRead, zeroPageAddr, formTrace, drive, MicroOp.isFree,
      BitVec.add_assoc, -BitVec.toNat_add, SeqState.dropNext, SeqState.poke]
  case zpy =>
    refine ⟨by simp [readCycles, indexCarries, bit], ?_⟩
    simp [Drives, readCycles, indexCarries, bit, opStep, MicroOp.request, MicroOp.effect, BusRequest.access, SeqState.peek, SeqState.readOf, LatchPair.addr,
      LatchPair.indexedAddr, LatchPair.hi, LatchPair.lo, LatchPair.setLo, LatchPair.setHi, IndexReg.get, SeqState.operandWord,
      SeqState.operand1, SeqState.operand2, SeqState.zpPointer, applyRead, zeroPageAddr, formTrace, drive, MicroOp.isFree,
      BitVec.add_assoc, -BitVec.toNat_add, SeqState.dropNext, SeqState.poke]
  case abs =>
    refine ⟨by simp [readCycles, indexCarries, bit], ?_⟩
    simp [Drives, readCycles, indexCarries, bit, opStep, MicroOp.request, MicroOp.effect, BusRequest.access, SeqState.peek, SeqState.readOf, LatchPair.addr,
      LatchPair.indexedAddr, LatchPair.hi, LatchPair.lo, LatchPair.setLo, LatchPair.setHi, IndexReg.get, SeqState.operandWord,
      SeqState.operand1, SeqState.operand2, SeqState.zpPointer, applyRead, zeroPageAddr, formTrace, drive, MicroOp.isFree,
      BitVec.add_assoc, -BitVec.toNat_add, SeqState.dropNext, SeqState.poke]
  case abx =>
    cases hc : carries st.operand1 st.x with
    | false =>
      rw [SeqState.operandWord, ← cat_add_of_not_carries hc]
      simp [-BitVec.toNat_add, SeqState.operand1, SeqState.peek, zeroPageAddr] at hc
      refine ⟨by simp [readCycles, indexCarries, bit, hc, SeqState.operand1, SeqState.peek, zeroPageAddr, -BitVec.toNat_add], ?_⟩
      simp [Drives, readCycles, indexCarries, bit, hc, opStep, MicroOp.request, MicroOp.effect, BusRequest.access, SeqState.peek, SeqState.readOf, LatchPair.addr,
      LatchPair.indexedAddr, LatchPair.hi, LatchPair.lo, LatchPair.setLo, LatchPair.setHi, IndexReg.get, SeqState.operandWord,
      SeqState.operand1, SeqState.operand2, SeqState.zpPointer, applyRead, zeroPageAddr, formTrace, drive, MicroOp.isFree,
      BitVec.add_assoc, -BitVec.toNat_add, SeqState.dropNext, SeqState.poke]
    | true =>
      rw [SeqState.operandWord, ← cat_add_of_carries hc]
      simp [-BitVec.toNat_add, SeqState.operand1, SeqState.peek, zeroPageAddr] at hc
      refine ⟨by simp [readCycles, indexCarries, bit, hc, SeqState.operand1, SeqState.peek, zeroPageAddr, -BitVec.toNat_add], ?_⟩
      simp [Drives, readCycles, indexCarries, bit, hc, opStep, MicroOp.request, MicroOp.effect, BusRequest.access, SeqState.peek, SeqState.readOf, LatchPair.addr,
      LatchPair.indexedAddr, LatchPair.hi, LatchPair.lo, LatchPair.setLo, LatchPair.setHi, IndexReg.get, SeqState.operandWord,
      SeqState.operand1, SeqState.operand2, SeqState.zpPointer, applyRead, zeroPageAddr, formTrace, drive, MicroOp.isFree,
      BitVec.add_assoc, -BitVec.toNat_add, SeqState.dropNext, SeqState.poke]
  case aby =>
    cases hc : carries st.operand1 st.y with
    | false =>
      rw [SeqState.operandWord, ← cat_add_of_not_carries hc]
      simp [-BitVec.toNat_add, SeqState.operand1, SeqState.peek, zeroPageAddr] at hc
      refine ⟨by simp [readCycles, indexCarries, bit, hc, SeqState.operand1, SeqState.peek, zeroPageAddr, -BitVec.toNat_add], ?_⟩
      simp [Drives, readCycles, indexCarries, bit, hc, opStep, MicroOp.request, MicroOp.effect, BusRequest.access, SeqState.peek, SeqState.readOf, LatchPair.addr,
      LatchPair.indexedAddr, LatchPair.hi, LatchPair.lo, LatchPair.setLo, LatchPair.setHi, IndexReg.get, SeqState.operandWord,
      SeqState.operand1, SeqState.operand2, SeqState.zpPointer, applyRead, zeroPageAddr, formTrace, drive, MicroOp.isFree,
      BitVec.add_assoc, -BitVec.toNat_add, SeqState.dropNext, SeqState.poke]
    | true =>
      rw [SeqState.operandWord, ← cat_add_of_carries hc]
      simp [-BitVec.toNat_add, SeqState.operand1, SeqState.peek, zeroPageAddr] at hc
      refine ⟨by simp [readCycles, indexCarries, bit, hc, SeqState.operand1, SeqState.peek, zeroPageAddr, -BitVec.toNat_add], ?_⟩
      simp [Drives, readCycles, indexCarries, bit, hc, opStep, MicroOp.request, MicroOp.effect, BusRequest.access, SeqState.peek, SeqState.readOf, LatchPair.addr,
      LatchPair.indexedAddr, LatchPair.hi, LatchPair.lo, LatchPair.setLo, LatchPair.setHi, IndexReg.get, SeqState.operandWord,
      SeqState.operand1, SeqState.operand2, SeqState.zpPointer, applyRead, zeroPageAddr, formTrace, drive, MicroOp.isFree,
      BitVec.add_assoc, -BitVec.toNat_add, SeqState.dropNext, SeqState.poke]
  case izx =>
    refine ⟨by simp [readCycles, indexCarries, bit], ?_⟩
    simp [Drives, readCycles, indexCarries, bit, opStep, MicroOp.request, MicroOp.effect, BusRequest.access, SeqState.peek, SeqState.readOf, LatchPair.addr,
      LatchPair.indexedAddr, LatchPair.hi, LatchPair.lo, LatchPair.setLo, LatchPair.setHi, IndexReg.get, SeqState.operandWord,
      SeqState.operand1, SeqState.operand2, SeqState.zpPointer, applyRead, zeroPageAddr, formTrace, drive, MicroOp.isFree,
      BitVec.add_assoc, -BitVec.toNat_add, SeqState.dropNext, SeqState.poke]
  case izy =>
    cases hc : carries (st.peek (zeroPageAddr st.operand1)) st.y with
    | false =>
      rw [SeqState.zpPointer, ← cat_add_of_not_carries hc]
      simp [-BitVec.toNat_add, SeqState.operand1, SeqState.peek, zeroPageAddr] at hc
      refine ⟨by simp [readCycles, indexCarries, bit, hc, SeqState.operand1, SeqState.peek, zeroPageAddr, -BitVec.toNat_add], ?_⟩
      simp [Drives, readCycles, indexCarries, bit, hc, opStep, MicroOp.request, MicroOp.effect, BusRequest.access, SeqState.peek, SeqState.readOf, LatchPair.addr,
      LatchPair.indexedAddr, LatchPair.hi, LatchPair.lo, LatchPair.setLo, LatchPair.setHi, IndexReg.get, SeqState.operandWord,
      SeqState.operand1, SeqState.operand2, SeqState.zpPointer, applyRead, zeroPageAddr, formTrace, drive, MicroOp.isFree,
      BitVec.add_assoc, -BitVec.toNat_add, SeqState.dropNext, SeqState.poke]
    | true =>
      rw [SeqState.zpPointer, ← cat_add_of_carries hc]
      simp [-BitVec.toNat_add, SeqState.operand1, SeqState.peek, zeroPageAddr] at hc
      refine ⟨by simp [readCycles, indexCarries, bit, hc, SeqState.operand1, SeqState.peek, zeroPageAddr, -BitVec.toNat_add], ?_⟩
      simp [Drives, readCycles, indexCarries, bit, hc, opStep, MicroOp.request, MicroOp.effect, BusRequest.access, SeqState.peek, SeqState.readOf, LatchPair.addr,
      LatchPair.indexedAddr, LatchPair.hi, LatchPair.lo, LatchPair.setLo, LatchPair.setHi, IndexReg.get, SeqState.operandWord,
      SeqState.operand1, SeqState.operand2, SeqState.zpPointer, applyRead, zeroPageAddr, formTrace, drive, MicroOp.isFree,
      BitVec.add_assoc, -BitVec.toNat_add, SeqState.dropNext, SeqState.poke]

/-- Write class (R183, R186, R189, R193, R196, R199). -/
theorem drives_write {mode : DecimalMode} {f : Format} {e : StoreFn} {ops : List MicroOp}
    (hs : writeSequence f e = some (.opc :: ops)) {a : Addr} (st : SeqState) (ha : operandAddr f st = some a) :
    writeCycles f - 1 ≤ ops.length ∧
      Drives mode { st with pc := st.pc + 1, q := ops } (writeCycles f - 1) (formTrace f true st ++ [BusAccess.write a (e.value st)]).tail := by
  cases f <;> simp only [writeSequence, reduceCtorEq, Option.some.injEq] at hs <;>
    simp only [operandAddr, Option.some.injEq] at ha <;> subst ha <;> cases hs
  case zp =>
    refine ⟨by simp [writeCycles, indexCarries, bit], ?_⟩
    simp [Drives, writeCycles, indexCarries, bit, opStep, MicroOp.request, MicroOp.effect, BusRequest.access, SeqState.peek, SeqState.readOf, LatchPair.addr,
      LatchPair.indexedAddr, LatchPair.hi, LatchPair.lo, LatchPair.setLo, LatchPair.setHi, IndexReg.get, SeqState.operandWord,
      SeqState.operand1, SeqState.operand2, SeqState.zpPointer, applyRead, zeroPageAddr, formTrace, drive, MicroOp.isFree,
      BitVec.add_assoc, -BitVec.toNat_add, SeqState.dropNext, SeqState.poke, StoreFn.value_congr st]
  case zpx =>
    refine ⟨by simp [writeCycles, indexCarries, bit], ?_⟩
    simp [Drives, writeCycles, indexCarries, bit, opStep, MicroOp.request, MicroOp.effect, BusRequest.access, SeqState.peek, SeqState.readOf, LatchPair.addr,
      LatchPair.indexedAddr, LatchPair.hi, LatchPair.lo, LatchPair.setLo, LatchPair.setHi, IndexReg.get, SeqState.operandWord,
      SeqState.operand1, SeqState.operand2, SeqState.zpPointer, applyRead, zeroPageAddr, formTrace, drive, MicroOp.isFree,
      BitVec.add_assoc, -BitVec.toNat_add, SeqState.dropNext, SeqState.poke, StoreFn.value_congr st]
  case zpy =>
    refine ⟨by simp [writeCycles, indexCarries, bit], ?_⟩
    simp [Drives, writeCycles, indexCarries, bit, opStep, MicroOp.request, MicroOp.effect, BusRequest.access, SeqState.peek, SeqState.readOf, LatchPair.addr,
      LatchPair.indexedAddr, LatchPair.hi, LatchPair.lo, LatchPair.setLo, LatchPair.setHi, IndexReg.get, SeqState.operandWord,
      SeqState.operand1, SeqState.operand2, SeqState.zpPointer, applyRead, zeroPageAddr, formTrace, drive, MicroOp.isFree,
      BitVec.add_assoc, -BitVec.toNat_add, SeqState.dropNext, SeqState.poke, StoreFn.value_congr st]
  case abs =>
    refine ⟨by simp [writeCycles, indexCarries, bit], ?_⟩
    simp [Drives, writeCycles, indexCarries, bit, opStep, MicroOp.request, MicroOp.effect, BusRequest.access, SeqState.peek, SeqState.readOf, LatchPair.addr,
      LatchPair.indexedAddr, LatchPair.hi, LatchPair.lo, LatchPair.setLo, LatchPair.setHi, IndexReg.get, SeqState.operandWord,
      SeqState.operand1, SeqState.operand2, SeqState.zpPointer, applyRead, zeroPageAddr, formTrace, drive, MicroOp.isFree,
      BitVec.add_assoc, -BitVec.toNat_add, SeqState.dropNext, SeqState.poke, StoreFn.value_congr st]
  case abx =>
    cases hc : carries st.operand1 st.x with
    | false =>
      rw [SeqState.operandWord, ← cat_add_of_not_carries hc]
      simp [-BitVec.toNat_add, SeqState.operand1, SeqState.peek, zeroPageAddr] at hc
      refine ⟨by simp [writeCycles, indexCarries, bit, hc, SeqState.operand1, SeqState.peek, zeroPageAddr, -BitVec.toNat_add], ?_⟩
      simp [Drives, writeCycles, indexCarries, bit, hc, opStep, MicroOp.request, MicroOp.effect, BusRequest.access, SeqState.peek, SeqState.readOf, LatchPair.addr,
      LatchPair.indexedAddr, LatchPair.hi, LatchPair.lo, LatchPair.setLo, LatchPair.setHi, IndexReg.get, SeqState.operandWord,
      SeqState.operand1, SeqState.operand2, SeqState.zpPointer, applyRead, zeroPageAddr, formTrace, drive, MicroOp.isFree,
      BitVec.add_assoc, -BitVec.toNat_add, SeqState.dropNext, SeqState.poke, StoreFn.value_congr st]
    | true =>
      rw [SeqState.operandWord, ← cat_add_of_carries hc]
      simp [-BitVec.toNat_add, SeqState.operand1, SeqState.peek, zeroPageAddr] at hc
      refine ⟨by simp [writeCycles, indexCarries, bit, hc, SeqState.operand1, SeqState.peek, zeroPageAddr, -BitVec.toNat_add], ?_⟩
      simp [Drives, writeCycles, indexCarries, bit, hc, opStep, MicroOp.request, MicroOp.effect, BusRequest.access, SeqState.peek, SeqState.readOf, LatchPair.addr,
      LatchPair.indexedAddr, LatchPair.hi, LatchPair.lo, LatchPair.setLo, LatchPair.setHi, IndexReg.get, SeqState.operandWord,
      SeqState.operand1, SeqState.operand2, SeqState.zpPointer, applyRead, zeroPageAddr, formTrace, drive, MicroOp.isFree,
      BitVec.add_assoc, -BitVec.toNat_add, SeqState.dropNext, SeqState.poke, StoreFn.value_congr st]
  case aby =>
    cases hc : carries st.operand1 st.y with
    | false =>
      rw [SeqState.operandWord, ← cat_add_of_not_carries hc]
      simp [-BitVec.toNat_add, SeqState.operand1, SeqState.peek, zeroPageAddr] at hc
      refine ⟨by simp [writeCycles, indexCarries, bit, hc, SeqState.operand1, SeqState.peek, zeroPageAddr, -BitVec.toNat_add], ?_⟩
      simp [Drives, writeCycles, indexCarries, bit, hc, opStep, MicroOp.request, MicroOp.effect, BusRequest.access, SeqState.peek, SeqState.readOf, LatchPair.addr,
      LatchPair.indexedAddr, LatchPair.hi, LatchPair.lo, LatchPair.setLo, LatchPair.setHi, IndexReg.get, SeqState.operandWord,
      SeqState.operand1, SeqState.operand2, SeqState.zpPointer, applyRead, zeroPageAddr, formTrace, drive, MicroOp.isFree,
      BitVec.add_assoc, -BitVec.toNat_add, SeqState.dropNext, SeqState.poke, StoreFn.value_congr st]
    | true =>
      rw [SeqState.operandWord, ← cat_add_of_carries hc]
      simp [-BitVec.toNat_add, SeqState.operand1, SeqState.peek, zeroPageAddr] at hc
      refine ⟨by simp [writeCycles, indexCarries, bit, hc, SeqState.operand1, SeqState.peek, zeroPageAddr, -BitVec.toNat_add], ?_⟩
      simp [Drives, writeCycles, indexCarries, bit, hc, opStep, MicroOp.request, MicroOp.effect, BusRequest.access, SeqState.peek, SeqState.readOf, LatchPair.addr,
      LatchPair.indexedAddr, LatchPair.hi, LatchPair.lo, LatchPair.setLo, LatchPair.setHi, IndexReg.get, SeqState.operandWord,
      SeqState.operand1, SeqState.operand2, SeqState.zpPointer, applyRead, zeroPageAddr, formTrace, drive, MicroOp.isFree,
      BitVec.add_assoc, -BitVec.toNat_add, SeqState.dropNext, SeqState.poke, StoreFn.value_congr st]
  case izx =>
    refine ⟨by simp [writeCycles, indexCarries, bit], ?_⟩
    simp [Drives, writeCycles, indexCarries, bit, opStep, MicroOp.request, MicroOp.effect, BusRequest.access, SeqState.peek, SeqState.readOf, LatchPair.addr,
      LatchPair.indexedAddr, LatchPair.hi, LatchPair.lo, LatchPair.setLo, LatchPair.setHi, IndexReg.get, SeqState.operandWord,
      SeqState.operand1, SeqState.operand2, SeqState.zpPointer, applyRead, zeroPageAddr, formTrace, drive, MicroOp.isFree,
      BitVec.add_assoc, -BitVec.toNat_add, SeqState.dropNext, SeqState.poke, StoreFn.value_congr st]
  case izy =>
    cases hc : carries (st.peek (zeroPageAddr st.operand1)) st.y with
    | false =>
      rw [SeqState.zpPointer, ← cat_add_of_not_carries hc]
      simp [-BitVec.toNat_add, SeqState.operand1, SeqState.peek, zeroPageAddr] at hc
      refine ⟨by simp [writeCycles, indexCarries, bit, hc, SeqState.operand1, SeqState.peek, zeroPageAddr, -BitVec.toNat_add], ?_⟩
      simp [Drives, writeCycles, indexCarries, bit, hc, opStep, MicroOp.request, MicroOp.effect, BusRequest.access, SeqState.peek, SeqState.readOf, LatchPair.addr,
      LatchPair.indexedAddr, LatchPair.hi, LatchPair.lo, LatchPair.setLo, LatchPair.setHi, IndexReg.get, SeqState.operandWord,
      SeqState.operand1, SeqState.operand2, SeqState.zpPointer, applyRead, zeroPageAddr, formTrace, drive, MicroOp.isFree,
      BitVec.add_assoc, -BitVec.toNat_add, SeqState.dropNext, SeqState.poke, StoreFn.value_congr st]
    | true =>
      rw [SeqState.zpPointer, ← cat_add_of_carries hc]
      simp [-BitVec.toNat_add, SeqState.operand1, SeqState.peek, zeroPageAddr] at hc
      refine ⟨by simp [writeCycles, indexCarries, bit, hc, SeqState.operand1, SeqState.peek, zeroPageAddr, -BitVec.toNat_add], ?_⟩
      simp [Drives, writeCycles, indexCarries, bit, hc, opStep, MicroOp.request, MicroOp.effect, BusRequest.access, SeqState.peek, SeqState.readOf, LatchPair.addr,
      LatchPair.indexedAddr, LatchPair.hi, LatchPair.lo, LatchPair.setLo, LatchPair.setHi, IndexReg.get, SeqState.operandWord,
      SeqState.operand1, SeqState.operand2, SeqState.zpPointer, applyRead, zeroPageAddr, formTrace, drive, MicroOp.isFree,
      BitVec.add_assoc, -BitVec.toNat_add, SeqState.dropNext, SeqState.poke, StoreFn.value_congr st]

/-- Rmw class (R184, R187, R190, R194, R197, R200). -/
theorem drives_rmw {mode : DecimalMode} {f : Format} {e : RmwFn} {ops : List MicroOp}
    (hs : rmwSequence f e = some (.opc :: ops)) {a : Addr} (st : SeqState) (ha : operandAddr f st = some a) :
    writeCycles f + 1 ≤ ops.length ∧
      Drives mode { st with pc := st.pc + 1, q := ops } (writeCycles f + 1) (formTrace f true st ++ [st.readOf a, BusAccess.write a (st.peek a), BusAccess.write a (e.apply mode (st.peek a) st).v]).tail := by
  cases f <;> simp only [rmwSequence, reduceCtorEq, Option.some.injEq] at hs <;>
    simp only [operandAddr, Option.some.injEq] at ha <;> subst ha <;> cases hs
  case zp =>
    refine ⟨by simp [writeCycles, indexCarries, bit], ?_⟩
    simp [Drives, writeCycles, indexCarries, bit, opStep, MicroOp.request, MicroOp.effect, BusRequest.access, SeqState.peek, SeqState.readOf, LatchPair.addr,
      LatchPair.indexedAddr, LatchPair.hi, LatchPair.lo, LatchPair.setLo, LatchPair.setHi, IndexReg.get, SeqState.operandWord,
      SeqState.operand1, SeqState.operand2, SeqState.zpPointer, applyRead, zeroPageAddr, formTrace, drive, MicroOp.isFree,
      BitVec.add_assoc, -BitVec.toNat_add, SeqState.dropNext, SeqState.poke, RmwFn.apply_v_congr st]
  case zpx =>
    refine ⟨by simp [writeCycles, indexCarries, bit], ?_⟩
    simp [Drives, writeCycles, indexCarries, bit, opStep, MicroOp.request, MicroOp.effect, BusRequest.access, SeqState.peek, SeqState.readOf, LatchPair.addr,
      LatchPair.indexedAddr, LatchPair.hi, LatchPair.lo, LatchPair.setLo, LatchPair.setHi, IndexReg.get, SeqState.operandWord,
      SeqState.operand1, SeqState.operand2, SeqState.zpPointer, applyRead, zeroPageAddr, formTrace, drive, MicroOp.isFree,
      BitVec.add_assoc, -BitVec.toNat_add, SeqState.dropNext, SeqState.poke, RmwFn.apply_v_congr st]
  case zpy =>
    refine ⟨by simp [writeCycles, indexCarries, bit], ?_⟩
    simp [Drives, writeCycles, indexCarries, bit, opStep, MicroOp.request, MicroOp.effect, BusRequest.access, SeqState.peek, SeqState.readOf, LatchPair.addr,
      LatchPair.indexedAddr, LatchPair.hi, LatchPair.lo, LatchPair.setLo, LatchPair.setHi, IndexReg.get, SeqState.operandWord,
      SeqState.operand1, SeqState.operand2, SeqState.zpPointer, applyRead, zeroPageAddr, formTrace, drive, MicroOp.isFree,
      BitVec.add_assoc, -BitVec.toNat_add, SeqState.dropNext, SeqState.poke, RmwFn.apply_v_congr st]
  case abs =>
    refine ⟨by simp [writeCycles, indexCarries, bit], ?_⟩
    simp [Drives, writeCycles, indexCarries, bit, opStep, MicroOp.request, MicroOp.effect, BusRequest.access, SeqState.peek, SeqState.readOf, LatchPair.addr,
      LatchPair.indexedAddr, LatchPair.hi, LatchPair.lo, LatchPair.setLo, LatchPair.setHi, IndexReg.get, SeqState.operandWord,
      SeqState.operand1, SeqState.operand2, SeqState.zpPointer, applyRead, zeroPageAddr, formTrace, drive, MicroOp.isFree,
      BitVec.add_assoc, -BitVec.toNat_add, SeqState.dropNext, SeqState.poke, RmwFn.apply_v_congr st]
  case abx =>
    cases hc : carries st.operand1 st.x with
    | false =>
      rw [SeqState.operandWord, ← cat_add_of_not_carries hc]
      simp [-BitVec.toNat_add, SeqState.operand1, SeqState.peek, zeroPageAddr] at hc
      refine ⟨by simp [writeCycles, indexCarries, bit, hc, SeqState.operand1, SeqState.peek, zeroPageAddr, -BitVec.toNat_add], ?_⟩
      simp [Drives, writeCycles, indexCarries, bit, hc, opStep, MicroOp.request, MicroOp.effect, BusRequest.access, SeqState.peek, SeqState.readOf, LatchPair.addr,
      LatchPair.indexedAddr, LatchPair.hi, LatchPair.lo, LatchPair.setLo, LatchPair.setHi, IndexReg.get, SeqState.operandWord,
      SeqState.operand1, SeqState.operand2, SeqState.zpPointer, applyRead, zeroPageAddr, formTrace, drive, MicroOp.isFree,
      BitVec.add_assoc, -BitVec.toNat_add, SeqState.dropNext, SeqState.poke, RmwFn.apply_v_congr st]
    | true =>
      rw [SeqState.operandWord, ← cat_add_of_carries hc]
      simp [-BitVec.toNat_add, SeqState.operand1, SeqState.peek, zeroPageAddr] at hc
      refine ⟨by simp [writeCycles, indexCarries, bit, hc, SeqState.operand1, SeqState.peek, zeroPageAddr, -BitVec.toNat_add], ?_⟩
      simp [Drives, writeCycles, indexCarries, bit, hc, opStep, MicroOp.request, MicroOp.effect, BusRequest.access, SeqState.peek, SeqState.readOf, LatchPair.addr,
      LatchPair.indexedAddr, LatchPair.hi, LatchPair.lo, LatchPair.setLo, LatchPair.setHi, IndexReg.get, SeqState.operandWord,
      SeqState.operand1, SeqState.operand2, SeqState.zpPointer, applyRead, zeroPageAddr, formTrace, drive, MicroOp.isFree,
      BitVec.add_assoc, -BitVec.toNat_add, SeqState.dropNext, SeqState.poke, RmwFn.apply_v_congr st]
  case aby =>
    cases hc : carries st.operand1 st.y with
    | false =>
      rw [SeqState.operandWord, ← cat_add_of_not_carries hc]
      simp [-BitVec.toNat_add, SeqState.operand1, SeqState.peek, zeroPageAddr] at hc
      refine ⟨by simp [writeCycles, indexCarries, bit, hc, SeqState.operand1, SeqState.peek, zeroPageAddr, -BitVec.toNat_add], ?_⟩
      simp [Drives, writeCycles, indexCarries, bit, hc, opStep, MicroOp.request, MicroOp.effect, BusRequest.access, SeqState.peek, SeqState.readOf, LatchPair.addr,
      LatchPair.indexedAddr, LatchPair.hi, LatchPair.lo, LatchPair.setLo, LatchPair.setHi, IndexReg.get, SeqState.operandWord,
      SeqState.operand1, SeqState.operand2, SeqState.zpPointer, applyRead, zeroPageAddr, formTrace, drive, MicroOp.isFree,
      BitVec.add_assoc, -BitVec.toNat_add, SeqState.dropNext, SeqState.poke, RmwFn.apply_v_congr st]
    | true =>
      rw [SeqState.operandWord, ← cat_add_of_carries hc]
      simp [-BitVec.toNat_add, SeqState.operand1, SeqState.peek, zeroPageAddr] at hc
      refine ⟨by simp [writeCycles, indexCarries, bit, hc, SeqState.operand1, SeqState.peek, zeroPageAddr, -BitVec.toNat_add], ?_⟩
      simp [Drives, writeCycles, indexCarries, bit, hc, opStep, MicroOp.request, MicroOp.effect, BusRequest.access, SeqState.peek, SeqState.readOf, LatchPair.addr,
      LatchPair.indexedAddr, LatchPair.hi, LatchPair.lo, LatchPair.setLo, LatchPair.setHi, IndexReg.get, SeqState.operandWord,
      SeqState.operand1, SeqState.operand2, SeqState.zpPointer, applyRead, zeroPageAddr, formTrace, drive, MicroOp.isFree,
      BitVec.add_assoc, -BitVec.toNat_add, SeqState.dropNext, SeqState.poke, RmwFn.apply_v_congr st]
  case izx =>
    refine ⟨by simp [writeCycles, indexCarries, bit], ?_⟩
    simp [Drives, writeCycles, indexCarries, bit, opStep, MicroOp.request, MicroOp.effect, BusRequest.access, SeqState.peek, SeqState.readOf, LatchPair.addr,
      LatchPair.indexedAddr, LatchPair.hi, LatchPair.lo, LatchPair.setLo, LatchPair.setHi, IndexReg.get, SeqState.operandWord,
      SeqState.operand1, SeqState.operand2, SeqState.zpPointer, applyRead, zeroPageAddr, formTrace, drive, MicroOp.isFree,
      BitVec.add_assoc, -BitVec.toNat_add, SeqState.dropNext, SeqState.poke, RmwFn.apply_v_congr st]
  case izy =>
    cases hc : carries (st.peek (zeroPageAddr st.operand1)) st.y with
    | false =>
      rw [SeqState.zpPointer, ← cat_add_of_not_carries hc]
      simp [-BitVec.toNat_add, SeqState.operand1, SeqState.peek, zeroPageAddr] at hc
      refine ⟨by simp [writeCycles, indexCarries, bit, hc, SeqState.operand1, SeqState.peek, zeroPageAddr, -BitVec.toNat_add], ?_⟩
      simp [Drives, writeCycles, indexCarries, bit, hc, opStep, MicroOp.request, MicroOp.effect, BusRequest.access, SeqState.peek, SeqState.readOf, LatchPair.addr,
      LatchPair.indexedAddr, LatchPair.hi, LatchPair.lo, LatchPair.setLo, LatchPair.setHi, IndexReg.get, SeqState.operandWord,
      SeqState.operand1, SeqState.operand2, SeqState.zpPointer, applyRead, zeroPageAddr, formTrace, drive, MicroOp.isFree,
      BitVec.add_assoc, -BitVec.toNat_add, SeqState.dropNext, SeqState.poke, RmwFn.apply_v_congr st]
    | true =>
      rw [SeqState.zpPointer, ← cat_add_of_carries hc]
      simp [-BitVec.toNat_add, SeqState.operand1, SeqState.peek, zeroPageAddr] at hc
      refine ⟨by simp [writeCycles, indexCarries, bit, hc, SeqState.operand1, SeqState.peek, zeroPageAddr, -BitVec.toNat_add], ?_⟩
      simp [Drives, writeCycles, indexCarries, bit, hc, opStep, MicroOp.request, MicroOp.effect, BusRequest.access, SeqState.peek, SeqState.readOf, LatchPair.addr,
      LatchPair.indexedAddr, LatchPair.hi, LatchPair.lo, LatchPair.setLo, LatchPair.setHi, IndexReg.get, SeqState.operandWord,
      SeqState.operand1, SeqState.operand2, SeqState.zpPointer, applyRead, zeroPageAddr, formTrace, drive, MicroOp.isFree,
      BitVec.add_assoc, -BitVec.toNat_add, SeqState.dropNext, SeqState.poke, RmwFn.apply_v_congr st]

/-- The accesses of the fixed sequences (R180, R191, R201 to R208). -/
theorem drives_imp {mode : DecimalMode} (e : ImpFn) (st : SeqState) :
    Drives mode { st with pc := st.pc + 1, q := [.dummyPc (some e)] } 1 [st.readOf (st.pc + 1)] := by
  simp [Drives, applyImp, opStep, MicroOp.request, MicroOp.effect, BusRequest.access, SeqState.peek, SeqState.readOf, LatchPair.addr,
      LatchPair.indexedAddr, LatchPair.hi, LatchPair.lo, LatchPair.setLo, LatchPair.setHi, IndexReg.get, SeqState.operandWord,
      SeqState.operand1, SeqState.operand2, SeqState.zpPointer, applyRead, zeroPageAddr, formTrace, drive, MicroOp.isFree,
      BitVec.add_assoc, -BitVec.toNat_add, SeqState.dropNext, SeqState.poke]

/-- Whether and how far a branch is taken decides its length (R202). -/
theorem drives_branch {mode : DecimalMode} (c : Cond) (st : SeqState) :
    Drives mode { st with pc := st.pc + 1, q := [.brOffset c, .brTake, .brFix] }
      (1 + bit (c.holds st) + bit (c.holds st && hiByte st.branchTarget != hiByte (st.pc + 2)))
      (st.readOf (st.pc + 1) ::
        if c.holds st then
          if hiByte st.branchTarget = hiByte (st.pc + 2) then [st.readOf (st.pc + 2)]
          else [st.readOf (st.pc + 2), st.readOf (cat (hiByte (st.pc + 2)) (loByte st.branchTarget))]
        else []) := by
  have hh : ∀ st' : SeqState, st'.p = st.p → c.holds st' = c.holds st := by
    intro st' h; cases c <;> simp [Cond.holds, h]
  cases hc : c.holds st
  · simp [Drives, bit, hh, hc, opStep, MicroOp.request, MicroOp.effect, BusRequest.access, SeqState.peek, SeqState.readOf, LatchPair.addr,
      LatchPair.indexedAddr, LatchPair.hi, LatchPair.lo, LatchPair.setLo, LatchPair.setHi, IndexReg.get, SeqState.operandWord,
      SeqState.operand1, SeqState.operand2, SeqState.zpPointer, applyRead, zeroPageAddr, formTrace, drive, MicroOp.isFree,
      BitVec.add_assoc, -BitVec.toNat_add, SeqState.dropNext, SeqState.poke]
  · by_cases hq : hiByte st.branchTarget = hiByte (st.pc + 2#16)
    · simp [SeqState.branchTarget, SeqState.operand1, SeqState.peek, -BitVec.toNat_add, BitVec.add_assoc] at hq
      simp [Drives, bit, hh, hc, hq, SeqState.branchTarget, opStep, MicroOp.request, MicroOp.effect, BusRequest.access, SeqState.peek, SeqState.readOf, LatchPair.addr,
      LatchPair.indexedAddr, LatchPair.hi, LatchPair.lo, LatchPair.setLo, LatchPair.setHi, IndexReg.get, SeqState.operandWord,
      SeqState.operand1, SeqState.operand2, SeqState.zpPointer, applyRead, zeroPageAddr, formTrace, drive, MicroOp.isFree,
      BitVec.add_assoc, -BitVec.toNat_add, SeqState.dropNext, SeqState.poke]
    · simp [SeqState.branchTarget, SeqState.operand1, SeqState.peek, -BitVec.toNat_add, BitVec.add_assoc] at hq
      simp [Drives, bit, hh, hc, hq, SeqState.branchTarget, opStep, MicroOp.request, MicroOp.effect, BusRequest.access, SeqState.peek, SeqState.readOf, LatchPair.addr,
      LatchPair.indexedAddr, LatchPair.hi, LatchPair.lo, LatchPair.setLo, LatchPair.setHi, IndexReg.get, SeqState.operandWord,
      SeqState.operand1, SeqState.operand2, SeqState.zpPointer, applyRead, zeroPageAddr, formTrace, drive, MicroOp.isFree,
      BitVec.add_assoc, -BitVec.toNat_add, SeqState.dropNext, SeqState.poke]

theorem drives_jmp {mode : DecimalMode} (st : SeqState) :
    Drives mode { st with pc := st.pc + 1, q := seqJmp.tail } 2 [st.readOf (st.pc + 1), st.readOf (st.pc + 2)] := by
  simp [Drives, seqJmp, opStep, MicroOp.request, MicroOp.effect, BusRequest.access, SeqState.peek, SeqState.readOf, LatchPair.addr,
      LatchPair.indexedAddr, LatchPair.hi, LatchPair.lo, LatchPair.setLo, LatchPair.setHi, IndexReg.get, SeqState.operandWord,
      SeqState.operand1, SeqState.operand2, SeqState.zpPointer, applyRead, zeroPageAddr, formTrace, drive, MicroOp.isFree,
      BitVec.add_assoc, -BitVec.toNat_add, SeqState.dropNext, SeqState.poke]

theorem drives_jmpInd {mode : DecimalMode} (st : SeqState) :
    Drives mode { st with pc := st.pc + 1, q := seqJmpInd.tail } 4
      [st.readOf (st.pc + 1), st.readOf (st.pc + 2), st.readOf st.operandWord,
        st.readOf (cat st.operand2 (st.operand1 + 1))] := by
  simp [Drives, seqJmpInd, opStep, MicroOp.request, MicroOp.effect, BusRequest.access, SeqState.peek, SeqState.readOf, LatchPair.addr,
      LatchPair.indexedAddr, LatchPair.hi, LatchPair.lo, LatchPair.setLo, LatchPair.setHi, IndexReg.get, SeqState.operandWord,
      SeqState.operand1, SeqState.operand2, SeqState.zpPointer, applyRead, zeroPageAddr, formTrace, drive, MicroOp.isFree,
      BitVec.add_assoc, -BitVec.toNat_add, SeqState.dropNext, SeqState.poke]

theorem drives_push {mode : DecimalMode} (v : PushVal) (st : SeqState) (hv : v = .a ∨ v = .statusBreak) :
    Drives mode { st with pc := st.pc + 1, q := [.dummyPc none, .push v] } 2
      [st.readOf (st.pc + 1), .write (stackAddr st.s) (v.value st)] := by
  rcases hv with rfl | rfl <;> simp [Drives, applyImp, PushVal.value, opStep, MicroOp.request, MicroOp.effect, BusRequest.access, SeqState.peek, SeqState.readOf, LatchPair.addr,
      LatchPair.indexedAddr, LatchPair.hi, LatchPair.lo, LatchPair.setLo, LatchPair.setHi, IndexReg.get, SeqState.operandWord,
      SeqState.operand1, SeqState.operand2, SeqState.zpPointer, applyRead, zeroPageAddr, formTrace, drive, MicroOp.isFree,
      BitVec.add_assoc, -BitVec.toNat_add, SeqState.dropNext, SeqState.poke]

theorem drives_pull {mode : DecimalMode} (l : LoadFn) (st : SeqState) :
    Drives mode { st with pc := st.pc + 1, q := [.dummyPc none, .pullDummy, .pull l] } 3
      [st.readOf (st.pc + 1), st.readOf (stackAddr st.s), st.readOf (stackAddr (st.s + 1))] := by
  simp [Drives, applyImp, opStep, MicroOp.request, MicroOp.effect, BusRequest.access, SeqState.peek, SeqState.readOf, LatchPair.addr,
      LatchPair.indexedAddr, LatchPair.hi, LatchPair.lo, LatchPair.setLo, LatchPair.setHi, IndexReg.get, SeqState.operandWord,
      SeqState.operand1, SeqState.operand2, SeqState.zpPointer, applyRead, zeroPageAddr, formTrace, drive, MicroOp.isFree,
      BitVec.add_assoc, -BitVec.toNat_add, SeqState.dropNext, SeqState.poke]

theorem drives_jsr {mode : DecimalMode} (st : SeqState) :
    Drives mode { st with pc := st.pc + 1, q := seqJsr.tail } 5
      [st.readOf (st.pc + 1), st.readOf (stackAddr st.s), .write (stackAddr st.s) (hiByte (st.pc + 2)),
        .write (stackAddr (st.s - 1)) (loByte (st.pc + 2)),
        .read (st.pc + 2) (st.peekAfter [(stackAddr st.s, hiByte (st.pc + 2)),
          (stackAddr (st.s - 1), loByte (st.pc + 2))] (st.pc + 2))] := by
  have h : st.peekAfter [(stackAddr st.s, hiByte (st.pc + 2)), (stackAddr (st.s - 1), loByte (st.pc + 2))] (st.pc + 2) =
      ((st.poke (stackAddr st.s) (hiByte (st.pc + 2))).poke (stackAddr (st.s - 1)) (loByte (st.pc + 2))).peek (st.pc + 2) := by
    simp only [SeqState.peek_poke, SeqState.peekAfter, List.foldl]
  rw [h]
  simp [Drives, seqJsr, PushVal.value, opStep, MicroOp.request, MicroOp.effect, BusRequest.access, SeqState.peek, SeqState.readOf, LatchPair.addr,
      LatchPair.indexedAddr, LatchPair.hi, LatchPair.lo, LatchPair.setLo, LatchPair.setHi, IndexReg.get, SeqState.operandWord,
      SeqState.operand1, SeqState.operand2, SeqState.zpPointer, applyRead, zeroPageAddr, formTrace, drive, MicroOp.isFree,
      BitVec.add_assoc, -BitVec.toNat_add, SeqState.dropNext, SeqState.poke]

theorem drives_rts {mode : DecimalMode} (st : SeqState) :
    Drives mode { st with pc := st.pc + 1, q := seqRts.tail } 5
      [st.readOf (st.pc + 1), st.readOf (stackAddr st.s), st.readOf (stackAddr (st.s + 1)),
        st.readOf (stackAddr (st.s + 2)),
        st.readOf (cat (st.peek (stackAddr (st.s + 2))) (st.peek (stackAddr (st.s + 1))))] := by
  simp [Drives, seqRts, applyImp, LoadFn.apply, opStep, MicroOp.request, MicroOp.effect, BusRequest.access, SeqState.peek, SeqState.readOf, LatchPair.addr,
      LatchPair.indexedAddr, LatchPair.hi, LatchPair.lo, LatchPair.setLo, LatchPair.setHi, IndexReg.get, SeqState.operandWord,
      SeqState.operand1, SeqState.operand2, SeqState.zpPointer, applyRead, zeroPageAddr, formTrace, drive, MicroOp.isFree,
      BitVec.add_assoc, -BitVec.toNat_add, SeqState.dropNext, SeqState.poke]

theorem drives_rti {mode : DecimalMode} (st : SeqState) :
    Drives mode { st with pc := st.pc + 1, q := seqRti.tail } 5
      [st.readOf (st.pc + 1), st.readOf (stackAddr st.s), st.readOf (stackAddr (st.s + 1)),
        st.readOf (stackAddr (st.s + 2)), st.readOf (stackAddr (st.s + 3))] := by
  simp [Drives, seqRti, applyImp, LoadFn.apply, SeqState.setP, opStep, MicroOp.request, MicroOp.effect, BusRequest.access, SeqState.peek, SeqState.readOf, LatchPair.addr,
      LatchPair.indexedAddr, LatchPair.hi, LatchPair.lo, LatchPair.setLo, LatchPair.setHi, IndexReg.get, SeqState.operandWord,
      SeqState.operand1, SeqState.operand2, SeqState.zpPointer, applyRead, zeroPageAddr, formTrace, drive, MicroOp.isFree,
      BitVec.add_assoc, -BitVec.toNat_add, SeqState.dropNext, SeqState.poke]

theorem drives_brk {mode : DecimalMode} (st : SeqState) :
    Drives mode { st with pc := st.pc + 1, q := seqBrk.tail } 6
      [st.readOf (st.pc + 1), .write (stackAddr st.s) (hiByte (st.pc + 2)),
        .write (stackAddr (st.s - 1)) (loByte (st.pc + 2)), .write (stackAddr (st.s - 2)) (pushedBreak st.p),
        .read irqVector ((st.pushFrame (st.pc + 2) (pushedBreak st.p)).peek irqVector),
        .read (irqVector + 1) ((st.pushFrame (st.pc + 2) (pushedBreak st.p)).peek (irqVector + 1))] := by
  have h : ∀ x : Byte, x - 1#8 - 1#8 = x - 2#8 := fun x => by rw [BitVec.sub_sub]; rfl
  simp [Drives, seqBrk, PushVal.value, SeqState.pushFrame, SeqState.setFlag, SeqState.setP, h, opStep, MicroOp.request, MicroOp.effect, BusRequest.access, SeqState.peek, SeqState.readOf, LatchPair.addr,
      LatchPair.indexedAddr, LatchPair.hi, LatchPair.lo, LatchPair.setLo, LatchPair.setHi, IndexReg.get, SeqState.operandWord,
      SeqState.operand1, SeqState.operand2, SeqState.zpPointer, applyRead, zeroPageAddr, formTrace, drive, MicroOp.isFree,
      BitVec.add_assoc, -BitVec.toNat_add, SeqState.dropNext, SeqState.poke]

/-! ### Every instruction -/

/-- What an instruction's row of the table names: its sequence, its base cycles and its penalty (R94, R96). -/
inductive RowKind (i : Instr) : Prop
  | imp (e : ImpFn) (h : rowSequence i.row = some (seqImp e)) (hc : i.cls = .imp ∨ i.cls = .acc ∨ i.cls = .unk) (hk : i.cycles = 2) (hp : i.row.penalty = .none)
  | read (e : ReadFn) (h : rowSequence i.row = readSequence i.format e) (hs : (readSequence i.format e).isSome = true) (hc : i.cls = .read) (hk : i.cycles = readCycles i.format)
     (hp : i.row.penalty = if i.format = .abx ∨ i.format = .aby ∨ i.format = .izy then .page else .none)
  | write (e : StoreFn) (h : rowSequence i.row = writeSequence i.format e) (hs : (writeSequence i.format e).isSome = true) (hc : i.cls = .write) (hk : i.cycles = writeCycles i.format) (hp : i.row.penalty = .none) (hf : storeFnOf i.mnemonic = some e)
  | rmw (e : RmwFn) (h : rowSequence i.row = rmwSequence i.format e) (hs : (rmwSequence i.format e).isSome = true) (hc : i.cls = .rmw) (hk : i.cycles = writeCycles i.format + 2) (hp : i.row.penalty = .none) (hf : rmwFnOf i.mnemonic = some e)
  | branch (c : Cond) (h : rowSequence i.row = some (seqBranch c)) (hc : i.cls = .branch) (hk : i.cycles = 2) (hp : i.row.penalty = .takenPage) (hf : condOf i.mnemonic = some c)
  | push (v : PushVal) (hv : v = .a ∨ v = .statusBreak) (h : rowSequence i.row = some (seqPush v)) (hc : i.cls = .push) (hk : i.cycles = 3) (hp : i.row.penalty = .none) (hf : pushValOf i.mnemonic = some v)
  | pull (v : LoadFn) (h : rowSequence i.row = some (seqPull v)) (hc : i.cls = .pull) (hk : i.cycles = 4) (hp : i.row.penalty = .none)
  | fixed (h : i = .jmpAbs ∨ i = .jmpInd ∨ i = .jsr ∨ i = .rts ∨ i = .rti ∨ i = .brk)

/-- Every row is of one of these kinds. -/
theorem rowKind (i : Instr) : RowKind i := by
  cases i <;> first
    | exact .read _ rfl rfl rfl rfl rfl
    | exact .imp _ rfl (by decide) rfl rfl
    | exact .rmw _ rfl rfl rfl rfl rfl rfl
    | exact .write _ rfl rfl rfl rfl rfl rfl
    | exact .branch _ rfl rfl rfl rfl rfl
    | exact .push _ (by decide) rfl rfl rfl rfl rfl
    | exact .pull _ rfl rfl rfl rfl
    | exact .fixed (by decide)

theorem trace_head {l : List BusAccess} {x} (h : l.head? = some x) : l = x :: l.tail := by cases l with
  | nil => cases h
  | cons a l => simp at h; rw [h]; rfl
theorem formTrace_ne (f : Format) (al : Bool) (st : SeqState) (l : List BusAccess) : (formTrace f al st ++ l).head? = some (st.readOf st.pc) := by
  cases f <;> rfl
theorem indexCarries_none {f : Format} {st : SeqState} (h : ¬ (f = .abx ∨ f = .aby ∨ f = .izy)) : indexCarries f st = false := by
  cases f <;> first | rfl | (exact absurd (by simp) h)

/-- Every instruction from its second cycle on: its sequence, how many operations of it run, and their accesses. -/
theorem drives_row (i : Instr) (mode : DecimalMode) (st : SeqState) : ∃ ops n tr, rowSequence i.row = some (.opc :: ops) ∧ n ≤ ops.length ∧
    cycleCount i st = n + 1 ∧ instrTrace i mode st = st.readOf st.pc :: tr ∧ Drives mode { st with pc := st.pc + 1, q := ops } n tr := by
  have seqs : ∀ ops : List MicroOp, ∀ f : Format, (∃ e, readSequence f e = some ops) ∨ (∃ e, writeSequence f e = some ops) ∨ (∃ e, rmwSequence f e = some ops) → ∃ l, ops = .opc :: l := by
    rintro ops f (⟨e, h⟩ | ⟨e, h⟩ | ⟨e, h⟩) <;> cases f <;> first | (cases h; exact ⟨_, rfl⟩) | (cases h)
  cases rowKind i with
  | imp e h hc hk hp =>
    refine ⟨_, _, _, h, Nat.le_refl _, ?_, ?_, drives_imp e st⟩
    · simp [cycleCount, hk, hp]
    · rcases hc with hc | hc | hc <;> simp [instrTrace, hc]
  | read e h hs hc hk hp =>
    obtain ⟨a, ha⟩ := operandAddr_isSome_of_read hs st
    obtain ⟨ops, ho⟩ := Option.isSome_iff_exists.mp hs
    obtain ⟨l, rfl⟩ := seqs ops _ (.inl ⟨e, ho⟩)
    obtain ⟨h1, h2⟩ := drives_read (mode := mode) ho st ha
    refine ⟨l, _, _, h.trans ho, h1, ?_, ?_, h2⟩
    · have hr : 1 ≤ readCycles i.format := by revert hs; cases i.format <;> simp [readSequence, readCycles]
      simp only [cycleCount, hk, hp]
      by_cases hx : i.format = .abx ∨ i.format = .aby ∨ i.format = .izy
      · simp only [if_pos hx]; omega
      · simp only [if_neg hx, indexCarries_none hx, bit]; simp; omega
    · simp only [instrTrace, hc, ha]
      exact trace_head (formTrace_ne ..)
  | write e h hs hc hk hp hf =>
    obtain ⟨a, ha⟩ := operandAddr_isSome_of_write hs st
    obtain ⟨ops, ho⟩ := Option.isSome_iff_exists.mp hs
    obtain ⟨l, rfl⟩ := seqs ops _ (.inr (.inl ⟨e, ho⟩))
    obtain ⟨h1, h2⟩ := drives_write (mode := mode) ho st ha
    refine ⟨l, _, _, h.trans ho, h1, ?_, ?_, h2⟩
    · have hr : 1 ≤ writeCycles i.format := by revert hs; cases i.format <;> simp [writeSequence, writeCycles]
      simp only [cycleCount, hk, hp]; omega
    · simp only [instrTrace, hc, ha, hf]
      exact trace_head (formTrace_ne ..)
  | rmw e h hs hc hk hp hf =>
    obtain ⟨a, ha⟩ := operandAddr_isSome_of_rmw hs st
    obtain ⟨ops, ho⟩ := Option.isSome_iff_exists.mp hs
    obtain ⟨l, rfl⟩ := seqs ops _ (.inr (.inr ⟨e, ho⟩))
    obtain ⟨h1, h2⟩ := drives_rmw (mode := mode) ho st ha
    refine ⟨l, _, _, h.trans ho, h1, ?_, ?_, h2⟩
    · simp only [cycleCount, hk, hp]
    · simp only [instrTrace, hc, ha, hf]
      exact trace_head (formTrace_ne ..)
  | branch c h hc hk hp hf =>
    refine ⟨_, _, _, h, ?_, ?_, ?_, drives_branch c st⟩
    · cases c.holds st <;> simp [bit]; split <;> simp
    · simp only [cycleCount, hk, hp, branchTaken, hf]; omega
    · simp only [instrTrace, hc, branchTrace, branchTaken, hf]; rfl
  | push v hv h hc hk hp hf =>
    refine ⟨_, _, _, h, Nat.le_refl _, ?_, ?_, drives_push v st hv⟩
    · simp [cycleCount, hk, hp]
    · simp [instrTrace, hc, hf]
  | pull v h hc hk hp =>
    refine ⟨_, _, _, h, Nat.le_refl _, ?_, ?_, drives_pull v st⟩
    · simp [cycleCount, hk, hp]
    · simp [instrTrace, hc]
  | fixed h =>
    rcases h with rfl | rfl | rfl | rfl | rfl | rfl
    · exact ⟨_, _, _, rfl, Nat.le_refl _, rfl, rfl, drives_jmp st⟩
    · exact ⟨_, _, _, rfl, Nat.le_refl _, rfl, rfl, drives_jmpInd st⟩
    · exact ⟨_, _, _, rfl, Nat.le_refl _, rfl, rfl, drives_jsr st⟩
    · exact ⟨_, _, _, rfl, Nat.le_refl _, rfl, rfl, drives_rts st⟩
    · exact ⟨_, _, _, rfl, Nat.le_refl _, rfl, rfl, drives_rti st⟩
    · refine ⟨_, _, _, rfl, by decide, rfl, ?_, drives_brk st⟩
      rw [SeqState.peek_pushFrame_high _ _ _ irqVector (by decide), SeqState.peek_pushFrame_high _ _ _ (irqVector + 1) (by decide)]
      rfl

/-- The NMI sample is on no trace. -/
theorem instrTrace_sampleNmi (i : Instr) (mode : DecimalMode) (st : SeqState) : instrTrace i mode st.sampleNmi = instrTrace i mode st := by
  have h1 : ∀ f, operandAddr f st.sampleNmi = operandAddr f st := by intro f; cases f <;> rfl
  have h2 : ∀ f b, formTrace f b st.sampleNmi = formTrace f b st := by intro f b; cases f <;> rfl
  have h3 : ∀ e m, (RmwFn.apply mode e m st.sampleNmi).v = (RmwFn.apply mode e m st).v := fun e m => RmwFn.apply_v_congr st mode e m rfl rfl
  unfold instrTrace
  split
  case h_4 => simp only [h1, h2]; rfl
  case h_6 => simp only [h1, h2, h3]; rfl
  all_goals first | rfl | (simp only [h1, h2]; rfl)


end Sys2Proof.Machine
end

