-- ==== Sys2Proof/Tests/Slice0.lean ====
section
/-! SUPPORT. Tests: ill-formed terms are refused, words written out from 30_encoding.md decode, vectors of
95_test_vectors.md (each test names its row: the expected values are the spec's), and a witness for the hypotheses of every
statement. -/

namespace Sys2Proof.Machine

/-! ### Vectors -/

/-- The conventions of 95_test_vectors.md: an instruction boundary, the bytes of one instruction at `PC`, zero elsewhere
but for the listed cells. -/
def start (mode : DecimalMode) (a x y s p : Byte) (pc : Addr) (bytes : List Byte) (cells : List (Nat × Byte)) : State :=
  let m := cells.foldl (fun m c => Memory.write m c.1 c.2) ([] : Memory)
  let st := SeqState.poweredOn { PowerOnValues.zero with a := a, x := x, y := y, s := s, p := p, pc := pc } m
  { seq := { st.pokes pc bytes with q := [] }
    sim := Net.pinsOnly.bare []
    params := { Params.spec with decimalMode := mode }
    host := [] }

/-- A step answered a next state with these registers, at an instruction boundary, its memory the start's but for the
listed changes. -/
def ends (r : Result) (a x y s p : Byte) (pc : Addr) (bytes : List Byte) (at_ : Addr) (cells changed : List (Nat × Byte)) :
    Bool :=
  match r with
  | .next t =>
    decide (t.seq.regs = { a := a, x := x, y := y, s := s, p := p, pc := pc }) && decide (t.seq.q = []) &&
      decide (t.seq.mem = changed.foldl (fun m c => Memory.write m c.1 c.2)
        (start .binaryOnly 0 0 0 0 0 at_ bytes cells).seq.mem)
  | .fault _ => false
  | .refused _ => false

/-- V3: ``LDA $12F0,X``. -/
theorem test_V3_lda :
    ends (step (start .binaryOnly 0x00 0x20 0x00 0xFD 0x24 0x0200 [0xBD, 0xF0, 0x12] [(0x1310, 0x7F)]))
      0x7F 0x20 0x00 0xFD 0x24 0x0203 [0xBD, 0xF0, 0x12] 0x0200 [(0x1310, 0x7F)] [] = true := by decide

/-- V5: ``LDA ($FF,X)``. -/
theorem test_V5_lda :
    ends (step (start .binaryOnly 0x00 0x00 0x00 0xFD 0x24 0x0200 [0xA1, 0xFF] [(0x00FF, 0x34), (0x0000, 0x12), (0x1234, 0xC3)]))
      0xC3 0x00 0x00 0xFD 0xA4 0x0202 [0xA1, 0xFF] 0x0200 [(0x00FF, 0x34), (0x0000, 0x12), (0x1234, 0xC3)] [] = true := by decide

/-- V6: ``LDA ($20),Y``. -/
theorem test_V6_lda :
    ends (step (start .binaryOnly 0x00 0x00 0x10 0xFD 0x24 0x0200 [0xB1, 0x20] [(0x0020, 0xF8), (0x0021, 0x40), (0x4108, 0x11)]))
      0x11 0x00 0x10 0xFD 0x24 0x0202 [0xB1, 0x20] 0x0200 [(0x0020, 0xF8), (0x0021, 0x40), (0x4108, 0x11)] [] = true := by decide

/-- V10: ``LDX $FF,Y``. -/
theorem test_V10_ldx :
    ends (step (start .binaryOnly 0x00 0x00 0x02 0xFD 0x24 0x0200 [0xB6, 0xFF] [(0x0001, 0x42), (0x0101, 0x66)]))
      0x00 0x42 0x02 0xFD 0x24 0x0202 [0xB6, 0xFF] 0x0200 [(0x0001, 0x42), (0x0101, 0x66)] [] = true := by decide

/-- V11: ``LDY $0300``. -/
theorem test_V11_ldy :
    ends (step (start .binaryOnly 0x00 0x00 0x00 0xFD 0x24 0x0200 [0xAC, 0x00, 0x03] []))
      0x00 0x00 0x00 0xFD 0x26 0x0203 [0xAC, 0x00, 0x03] 0x0200 [] [] = true := by decide

/-- V13: ``STA $12F0,X``. -/
theorem test_V13_sta :
    ends (step (start .binaryOnly 0xAB 0x20 0x00 0xFD 0x24 0x0200 [0x9D, 0xF0, 0x12] []))
      0xAB 0x20 0x00 0xFD 0x24 0x0203 [0x9D, 0xF0, 0x12] 0x0200 [] [(0x1310, 0xAB)] = true := by decide

/-- V16: ``STA ($20,X)``. -/
theorem test_V16_sta :
    ends (step (start .binaryOnly 0x5A 0xFF 0x00 0xFD 0x24 0x0200 [0x81, 0x20] [(0x0020, 0x30)]))
      0x5A 0xFF 0x00 0xFD 0x24 0x0202 [0x81, 0x20] 0x0200 [(0x0020, 0x30)] [(0x3000, 0x5A)] = true := by decide

/-- V17: ``STX $FF,Y``. -/
theorem test_V17_stx :
    ends (step (start .binaryOnly 0x00 0x77 0x02 0xFD 0x24 0x0200 [0x96, 0xFF] []))
      0x00 0x77 0x02 0xFD 0x24 0x0202 [0x96, 0xFF] 0x0200 [] [(0x0001, 0x77)] = true := by decide

/-- V18: ``STY $10``. -/
theorem test_V18_sty :
    ends (step (start .binaryOnly 0x00 0x00 0x80 0xFD 0x24 0x0200 [0x84, 0x10] []))
      0x00 0x00 0x80 0xFD 0x24 0x0202 [0x84, 0x10] 0x0200 [] [(0x0010, 0x80)] = true := by decide

/-- V19: ``TAX``. -/
theorem test_V19_tax :
    ends (step (start .binaryOnly 0x80 0x00 0x00 0xFD 0x24 0x0200 [0xAA] []))
      0x80 0x80 0x00 0xFD 0xA4 0x0201 [0xAA] 0x0200 [] [] = true := by decide

/-- V20: ``TAY``. -/
theorem test_V20_tay :
    ends (step (start .binaryOnly 0x00 0x00 0x05 0xFD 0x24 0x0200 [0xA8] []))
      0x00 0x00 0x00 0xFD 0x26 0x0201 [0xA8] 0x0200 [] [] = true := by decide

/-- V21: ``TXA``. -/
theorem test_V21_txa :
    ends (step (start .binaryOnly 0x80 0x7F 0x00 0xFD 0xA4 0x0200 [0x8A] []))
      0x7F 0x7F 0x00 0xFD 0x24 0x0201 [0x8A] 0x0200 [] [] = true := by decide

/-- V22: ``TYA``. -/
theorem test_V22_tya :
    ends (step (start .binaryOnly 0x00 0x00 0xFF 0xFD 0x24 0x0200 [0x98] []))
      0xFF 0x00 0xFF 0xFD 0xA4 0x0201 [0x98] 0x0200 [] [] = true := by decide

/-- V23: ``TSX``. -/
theorem test_V23_tsx :
    ends (step (start .binaryOnly 0x00 0x00 0x00 0xFD 0x24 0x0200 [0xBA] []))
      0x00 0xFD 0x00 0xFD 0xA4 0x0201 [0xBA] 0x0200 [] [] = true := by decide

/-- V24: ``TXS``. -/
theorem test_V24_txs :
    ends (step (start .binaryOnly 0x00 0x00 0x00 0xFD 0x24 0x0200 [0x9A] []))
      0x00 0x00 0x00 0x00 0x24 0x0201 [0x9A] 0x0200 [] [] = true := by decide

/-- V25: ``ADC #$01``. -/
theorem test_V25_adc :
    ends (step (start .binaryOnly 0x7F 0x00 0x00 0xFD 0x24 0x0200 [0x69, 0x01] []))
      0x80 0x00 0x00 0xFD 0xE4 0x0202 [0x69, 0x01] 0x0200 [] [] = true := by decide

/-- V29: ``ADC #$46``. -/
theorem test_V29_adc :
    ends (step (start .nmos 0x58 0x00 0x00 0xFD 0x2D 0x0200 [0x69, 0x46] []))
      0x05 0x00 0x00 0xFD 0xED 0x0202 [0x69, 0x46] 0x0200 [] [] = true := by decide

/-- V33: ``SBC #$01``. -/
theorem test_V33_sbc :
    ends (step (start .binaryOnly 0x00 0x00 0x00 0xFD 0x25 0x0200 [0xE9, 0x01] []))
      0xFF 0x00 0x00 0xFD 0xA4 0x0202 [0xE9, 0x01] 0x0200 [] [] = true := by decide

/-- V37: ``SBC #$01``. -/
theorem test_V37_sbc :
    ends (step (start .nmos 0x00 0x00 0x00 0xFD 0x2D 0x0200 [0xE9, 0x01] []))
      0x99 0x00 0x00 0xFD 0xAC 0x0202 [0xE9, 0x01] 0x0200 [] [] = true := by decide

/-- V39: ``AND #$F1``. -/
theorem test_V39_and :
    ends (step (start .binaryOnly 0xF1 0x00 0x00 0xFD 0x24 0x0200 [0x29, 0xF1] []))
      0xF1 0x00 0x00 0xFD 0xA4 0x0202 [0x29, 0xF1] 0x0200 [] [] = true := by decide

/-- V41: ``ORA #$80``. -/
theorem test_V41_ora :
    ends (step (start .binaryOnly 0x01 0x00 0x00 0xFD 0x24 0x0200 [0x09, 0x80] []))
      0x81 0x00 0x00 0xFD 0xA4 0x0202 [0x09, 0x80] 0x0200 [] [] = true := by decide

/-- V42: ``EOR #$FF``. -/
theorem test_V42_eor :
    ends (step (start .binaryOnly 0xFF 0x00 0x00 0xFD 0x24 0x0200 [0x49, 0xFF] []))
      0x00 0x00 0x00 0xFD 0x26 0x0202 [0x49, 0xFF] 0x0200 [] [] = true := by decide

/-- V43: ``BIT $10``. -/
theorem test_V43_bit :
    ends (step (start .binaryOnly 0x01 0x00 0x00 0xFD 0x24 0x0200 [0x24, 0x10] [(0x0010, 0xC0)]))
      0x01 0x00 0x00 0xFD 0xE6 0x0202 [0x24, 0x10] 0x0200 [(0x0010, 0xC0)] [] = true := by decide

/-- V46: ``CMP #$41``. -/
theorem test_V46_cmp :
    ends (step (start .binaryOnly 0x40 0x00 0x00 0xFD 0x24 0x0200 [0xC9, 0x41] []))
      0x40 0x00 0x00 0xFD 0xA4 0x0202 [0xC9, 0x41] 0x0200 [] [] = true := by decide

/-- V48: ``CPX #$10``. -/
theorem test_V48_cpx :
    ends (step (start .binaryOnly 0x00 0x20 0x00 0xFD 0x24 0x0200 [0xE0, 0x10] []))
      0x00 0x20 0x00 0xFD 0x25 0x0202 [0xE0, 0x10] 0x0200 [] [] = true := by decide

/-- V49: ``CPY #$FF``. -/
theorem test_V49_cpy :
    ends (step (start .binaryOnly 0x00 0x00 0x00 0xFD 0x24 0x0200 [0xC0, 0xFF] []))
      0x00 0x00 0x00 0xFD 0x24 0x0202 [0xC0, 0xFF] 0x0200 [] [] = true := by decide

/-- V51: ``INC $12F0,X``. -/
theorem test_V51_inc :
    ends (step (start .binaryOnly 0x00 0x20 0x00 0xFD 0x24 0x0200 [0xFE, 0xF0, 0x12] [(0x1310, 0x7F)]))
      0x00 0x20 0x00 0xFD 0xA4 0x0203 [0xFE, 0xF0, 0x12] 0x0200 [(0x1310, 0x7F)] [(0x1310, 0x80)] = true := by decide

/-- V52: ``DEC $10``. -/
theorem test_V52_dec :
    ends (step (start .binaryOnly 0x00 0x00 0x00 0xFD 0x24 0x0200 [0xC6, 0x10] []))
      0x00 0x00 0x00 0xFD 0xA4 0x0202 [0xC6, 0x10] 0x0200 [] [(0x0010, 0xFF)] = true := by decide

/-- V53: ``INX``. -/
theorem test_V53_inx :
    ends (step (start .binaryOnly 0x00 0xFF 0x00 0xFD 0x24 0x0200 [0xE8] []))
      0x00 0x00 0x00 0xFD 0x26 0x0201 [0xE8] 0x0200 [] [] = true := by decide

/-- V54: ``INY``. -/
theorem test_V54_iny :
    ends (step (start .binaryOnly 0x00 0x00 0x7F 0xFD 0x24 0x0200 [0xC8] []))
      0x00 0x00 0x80 0xFD 0xA4 0x0201 [0xC8] 0x0200 [] [] = true := by decide

/-- V55: ``DEX``. -/
theorem test_V55_dex :
    ends (step (start .binaryOnly 0x00 0x00 0x00 0xFD 0x24 0x0200 [0xCA] []))
      0x00 0xFF 0x00 0xFD 0xA4 0x0201 [0xCA] 0x0200 [] [] = true := by decide

/-- V56: ``DEY``. -/
theorem test_V56_dey :
    ends (step (start .binaryOnly 0x00 0x00 0x01 0xFD 0x24 0x0200 [0x88] []))
      0x00 0x00 0x00 0xFD 0x26 0x0201 [0x88] 0x0200 [] [] = true := by decide

/-- V57: ``ASL A``. -/
theorem test_V57_asl :
    ends (step (start .binaryOnly 0x81 0x00 0x00 0xFD 0x24 0x0200 [0x0A] []))
      0x02 0x00 0x00 0xFD 0x25 0x0201 [0x0A] 0x0200 [] [] = true := by decide

/-- V60: ``LSR $1234``. -/
theorem test_V60_lsr :
    ends (step (start .binaryOnly 0x00 0x00 0x00 0xFD 0x24 0x0200 [0x4E, 0x34, 0x12] [(0x1234, 0xFE)]))
      0x00 0x00 0x00 0xFD 0x24 0x0203 [0x4E, 0x34, 0x12] 0x0200 [(0x1234, 0xFE)] [(0x1234, 0x7F)] = true := by decide

/-- V61: ``ROL A``. -/
theorem test_V61_rol :
    ends (step (start .binaryOnly 0x80 0x00 0x00 0xFD 0x25 0x0200 [0x2A] []))
      0x01 0x00 0x00 0xFD 0x25 0x0201 [0x2A] 0x0200 [] [] = true := by decide

/-- V64: ``ROR $10``. -/
theorem test_V64_ror :
    ends (step (start .binaryOnly 0x00 0x00 0x00 0xFD 0x25 0x0200 [0x66, 0x10] []))
      0x00 0x00 0x00 0xFD 0xA4 0x0202 [0x66, 0x10] 0x0200 [] [(0x0010, 0x80)] = true := by decide

/-- V66: ``BNE $0207``. -/
theorem test_V66_bne :
    ends (step (start .binaryOnly 0x00 0x00 0x00 0xFD 0x26 0x0200 [0xD0, 0x05] []))
      0x00 0x00 0x00 0xFD 0x26 0x0202 [0xD0, 0x05] 0x0200 [] [] = true := by decide

/-- V67: ``BEQ $01FF``. -/
theorem test_V67_beq :
    ends (step (start .binaryOnly 0x00 0x00 0x00 0xFD 0x26 0x0200 [0xF0, 0xFD] []))
      0x00 0x00 0x00 0xFD 0x26 0x01FF [0xF0, 0xFD] 0x0200 [] [] = true := by decide

/-- V68: ``BCC $0371``. -/
theorem test_V68_bcc :
    ends (step (start .binaryOnly 0x00 0x00 0x00 0xFD 0x24 0x02F0 [0x90, 0x7F] []))
      0x00 0x00 0x00 0xFD 0x24 0x0371 [0x90, 0x7F] 0x02F0 [] [] = true := by decide

/-- V69: ``BCS $0182``. -/
theorem test_V69_bcs :
    ends (step (start .binaryOnly 0x00 0x00 0x00 0xFD 0x25 0x0200 [0xB0, 0x80] []))
      0x00 0x00 0x00 0xFD 0x25 0x0182 [0xB0, 0x80] 0x0200 [] [] = true := by decide

/-- V70: ``BPL $0202``. -/
theorem test_V70_bpl :
    ends (step (start .binaryOnly 0x00 0x00 0x00 0xFD 0x24 0x0200 [0x10, 0x00] []))
      0x00 0x00 0x00 0xFD 0x24 0x0202 [0x10, 0x00] 0x0200 [] [] = true := by decide

/-- V71: ``BMI $0204``. -/
theorem test_V71_bmi :
    ends (step (start .binaryOnly 0x00 0x00 0x00 0xFD 0xA4 0x0200 [0x30, 0x02] []))
      0x00 0x00 0x00 0xFD 0xA4 0x0204 [0x30, 0x02] 0x0200 [] [] = true := by decide

/-- V72: ``BVC $0204``. -/
theorem test_V72_bvc :
    ends (step (start .binaryOnly 0x00 0x00 0x00 0xFD 0x24 0x0200 [0x50, 0x02] []))
      0x00 0x00 0x00 0xFD 0x24 0x0204 [0x50, 0x02] 0x0200 [] [] = true := by decide

/-- V73: ``BVS $0204``. -/
theorem test_V73_bvs :
    ends (step (start .binaryOnly 0x00 0x00 0x00 0xFD 0x64 0x0200 [0x70, 0x02] []))
      0x00 0x00 0x00 0xFD 0x64 0x0204 [0x70, 0x02] 0x0200 [] [] = true := by decide

/-- V75: ``JMP $0600``. -/
theorem test_V75_jmp :
    ends (step (start .binaryOnly 0x00 0x00 0x00 0xFD 0x24 0x0200 [0x4C, 0x00, 0x06] []))
      0x00 0x00 0x00 0xFD 0x24 0x0600 [0x4C, 0x00, 0x06] 0x0200 [] [] = true := by decide

/-- V76: ``JMP ($34FF)``. -/
theorem test_V76_jmp :
    ends (step (start .binaryOnly 0x00 0x00 0x00 0xFD 0x24 0x0200 [0x6C, 0xFF, 0x34] [(0x34FF, 0x78), (0x3400, 0x56), (0x3500, 0x99)]))
      0x00 0x00 0x00 0xFD 0x24 0x5678 [0x6C, 0xFF, 0x34] 0x0200 [(0x34FF, 0x78), (0x3400, 0x56), (0x3500, 0x99)] [] = true := by decide

/-- V78: ``JSR $0600``. -/
theorem test_V78_jsr :
    ends (step (start .binaryOnly 0x00 0x00 0x00 0xFD 0x24 0x0200 [0x20, 0x00, 0x06] []))
      0x00 0x00 0x00 0xFB 0x24 0x0600 [0x20, 0x00, 0x06] 0x0200 [] [(0x01FC, 0x02), (0x01FD, 0x02)] = true := by decide

/-- V79: ``RTS``. -/
theorem test_V79_rts :
    ends (step (start .binaryOnly 0x00 0x00 0x00 0xFB 0x24 0x0200 [0x60] [(0x01FC, 0x02), (0x01FD, 0x02)]))
      0x00 0x00 0x00 0xFD 0x24 0x0203 [0x60] 0x0200 [(0x01FC, 0x02), (0x01FD, 0x02)] [] = true := by decide

/-- V80: ``RTI``. -/
theorem test_V80_rti :
    ends (step (start .binaryOnly 0x00 0x00 0x00 0xFA 0x24 0x0200 [0x40] [(0x01FB, 0xF3), (0x01FC, 0x34), (0x01FD, 0x12)]))
      0x00 0x00 0x00 0xFD 0xE3 0x1234 [0x40] 0x0200 [(0x01FB, 0xF3), (0x01FC, 0x34), (0x01FD, 0x12)] [] = true := by decide

/-- V81: ``NOP``. -/
theorem test_V81_nop :
    ends (step (start .binaryOnly 0x00 0x00 0x00 0xFD 0x24 0x0200 [0xEA] []))
      0x00 0x00 0x00 0xFD 0x24 0x0201 [0xEA] 0x0200 [] [] = true := by decide

/-- V83: ``PHA``. -/
theorem test_V83_pha :
    ends (step (start .binaryOnly 0x11 0x00 0x00 0x00 0x24 0x0200 [0x48] []))
      0x11 0x00 0x00 0xFF 0x24 0x0201 [0x48] 0x0200 [] [(0x0100, 0x11)] = true := by decide

/-- V85: ``PHP``. -/
theorem test_V85_php :
    ends (step (start .binaryOnly 0x00 0x00 0x00 0xFD 0xC3 0x0200 [0x08] []))
      0x00 0x00 0x00 0xFC 0xC3 0x0201 [0x08] 0x0200 [] [(0x01FD, 0xF3)] = true := by decide

/-- V87: ``PLA``. -/
theorem test_V87_pla :
    ends (step (start .binaryOnly 0x00 0x00 0x00 0xFF 0x24 0x0200 [0x68] [(0x0100, 0x80)]))
      0x80 0x00 0x00 0x00 0xA4 0x0201 [0x68] 0x0200 [(0x0100, 0x80)] [] = true := by decide

/-- V88: ``PLP``. -/
theorem test_V88_plp :
    ends (step (start .binaryOnly 0x00 0x00 0x00 0xFC 0x24 0x0200 [0x28] [(0x01FD, 0xFF)]))
      0x00 0x00 0x00 0xFD 0xEF 0x0201 [0x28] 0x0200 [(0x01FD, 0xFF)] [] = true := by decide

/-- V90: ``CLC``. -/
theorem test_V90_clc :
    ends (step (start .binaryOnly 0x00 0x00 0x00 0xFD 0xFF 0x0200 [0x18] []))
      0x00 0x00 0x00 0xFD 0xFE 0x0201 [0x18] 0x0200 [] [] = true := by decide

/-- V91: ``SEC``. -/
theorem test_V91_sec :
    ends (step (start .binaryOnly 0x00 0x00 0x00 0xFD 0x00 0x0200 [0x38] []))
      0x00 0x00 0x00 0xFD 0x01 0x0201 [0x38] 0x0200 [] [] = true := by decide

/-- V92: ``CLI``. -/
theorem test_V92_cli :
    ends (step (start .binaryOnly 0x00 0x00 0x00 0xFD 0xFF 0x0200 [0x58] []))
      0x00 0x00 0x00 0xFD 0xFB 0x0201 [0x58] 0x0200 [] [] = true := by decide

/-- V93: ``SEI``. -/
theorem test_V93_sei :
    ends (step (start .binaryOnly 0x00 0x00 0x00 0xFD 0x00 0x0200 [0x78] []))
      0x00 0x00 0x00 0xFD 0x04 0x0201 [0x78] 0x0200 [] [] = true := by decide

/-- V94: ``CLV``. -/
theorem test_V94_clv :
    ends (step (start .binaryOnly 0x00 0x00 0x00 0xFD 0xFF 0x0200 [0xB8] []))
      0x00 0x00 0x00 0xFD 0xBF 0x0201 [0xB8] 0x0200 [] [] = true := by decide

/-- V95: ``CLD``. -/
theorem test_V95_cld :
    ends (step (start .binaryOnly 0x00 0x00 0x00 0xFD 0xFF 0x0200 [0xD8] []))
      0x00 0x00 0x00 0xFD 0xF7 0x0201 [0xD8] 0x0200 [] [] = true := by decide

/-- V96: ``SED``. -/
theorem test_V96_sed :
    ends (step (start .binaryOnly 0x00 0x00 0x00 0xFD 0x00 0x0200 [0xF8] []))
      0x00 0x00 0x00 0xFD 0x08 0x0201 [0xF8] 0x0200 [] [] = true := by decide

/-- V98: ``SLO $12F0,Y``. -/
theorem test_V98_slo :
    ends (step (start .binaryOnly 0x00 0x00 0x20 0xFD 0x24 0x0200 [0x1B, 0xF0, 0x12] [(0x1310, 0x40)]))
      0x80 0x00 0x20 0xFD 0xA4 0x0203 [0x1B, 0xF0, 0x12] 0x0200 [(0x1310, 0x40)] [(0x1310, 0x80)] = true := by decide

/-- V100: ``RLA $10``. -/
theorem test_V100_rla :
    ends (step (start .binaryOnly 0xFF 0x00 0x00 0xFD 0x25 0x0200 [0x27, 0x10] [(0x0010, 0x80)]))
      0x01 0x00 0x00 0xFD 0x25 0x0202 [0x27, 0x10] 0x0200 [(0x0010, 0x80)] [(0x0010, 0x01)] = true := by decide

/-- V101: ``SRE $10``. -/
theorem test_V101_sre :
    ends (step (start .binaryOnly 0x01 0x00 0x00 0xFD 0x24 0x0200 [0x47, 0x10] [(0x0010, 0x03)]))
      0x00 0x00 0x00 0xFD 0x27 0x0202 [0x47, 0x10] 0x0200 [(0x0010, 0x03)] [(0x0010, 0x01)] = true := by decide

/-- V102: ``RRA $10``. -/
theorem test_V102_rra :
    ends (step (start .binaryOnly 0x10 0x00 0x00 0xFD 0x25 0x0200 [0x67, 0x10] [(0x0010, 0x02)]))
      0x91 0x00 0x00 0xFD 0xA4 0x0202 [0x67, 0x10] 0x0200 [(0x0010, 0x02)] [(0x0010, 0x81)] = true := by decide

/-- V104: ``SAX $10``. -/
theorem test_V104_sax :
    ends (step (start .binaryOnly 0xF0 0x3C 0x00 0xFD 0x24 0x0200 [0x87, 0x10] []))
      0xF0 0x3C 0x00 0xFD 0x24 0x0202 [0x87, 0x10] 0x0200 [] [(0x0010, 0x30)] = true := by decide

/-- V106: ``LAX ($20),Y``. -/
theorem test_V106_lax :
    ends (step (start .binaryOnly 0x01 0x01 0x10 0xFD 0x24 0x0200 [0xB3, 0x20] [(0x0020, 0xF8), (0x0021, 0x40)]))
      0x00 0x00 0x10 0xFD 0x26 0x0202 [0xB3, 0x20] 0x0200 [(0x0020, 0xF8), (0x0021, 0x40)] [] = true := by decide

/-- V107: ``DCP $10``. -/
theorem test_V107_dcp :
    ends (step (start .binaryOnly 0x40 0x00 0x00 0xFD 0x24 0x0200 [0xC7, 0x10] [(0x0010, 0x41)]))
      0x40 0x00 0x00 0xFD 0x27 0x0202 [0xC7, 0x10] 0x0200 [(0x0010, 0x41)] [(0x0010, 0x40)] = true := by decide

/-- V109: ``ISC $10``. -/
theorem test_V109_isc :
    ends (step (start .binaryOnly 0x10 0x00 0x00 0xFD 0x25 0x0200 [0xE7, 0x10] []))
      0x0F 0x00 0x00 0xFD 0x25 0x0202 [0xE7, 0x10] 0x0200 [] [(0x0010, 0x01)] = true := by decide

/-- V111: ``ANC #$80``. -/
theorem test_V111_anc :
    ends (step (start .binaryOnly 0xFF 0x00 0x00 0xFD 0x24 0x0200 [0x0B, 0x80] []))
      0x80 0x00 0x00 0xFD 0xA5 0x0202 [0x0B, 0x80] 0x0200 [] [] = true := by decide

/-- V112: ``ANC #$7F``. -/
theorem test_V112_anc :
    ends (step (start .binaryOnly 0xFF 0x00 0x00 0xFD 0x25 0x0200 [0x2B, 0x7F] []))
      0x7F 0x00 0x00 0xFD 0x24 0x0202 [0x2B, 0x7F] 0x0200 [] [] = true := by decide

/-- V113: ``ALR #$03``. -/
theorem test_V113_alr :
    ends (step (start .binaryOnly 0xFF 0x00 0x00 0xFD 0x24 0x0200 [0x4B, 0x03] []))
      0x01 0x00 0x00 0xFD 0x25 0x0202 [0x4B, 0x03] 0x0200 [] [] = true := by decide

/-- V114: ``ARR #$FF``. -/
theorem test_V114_arr :
    ends (step (start .binaryOnly 0xC0 0x00 0x00 0xFD 0x25 0x0200 [0x6B, 0xFF] []))
      0xE0 0x00 0x00 0xFD 0xA5 0x0202 [0x6B, 0xFF] 0x0200 [] [] = true := by decide

/-- V116: ``ARR #$FF``. -/
theorem test_V116_arr :
    ends (step (start .binaryOnly 0x80 0x00 0x00 0xFD 0x24 0x0200 [0x6B, 0xFF] []))
      0x40 0x00 0x00 0xFD 0x65 0x0202 [0x6B, 0xFF] 0x0200 [] [] = true := by decide

/-- V118: ``AXS #$10``. -/
theorem test_V118_axs :
    ends (step (start .binaryOnly 0x0F 0x0F 0x00 0xFD 0x24 0x0200 [0xCB, 0x10] []))
      0x0F 0xFF 0x00 0xFD 0xA4 0x0202 [0xCB, 0x10] 0x0200 [] [] = true := by decide

/-- V119: ``LAS $12F0,Y``. -/
theorem test_V119_las :
    ends (step (start .binaryOnly 0x00 0x00 0x20 0x3C 0x24 0x0200 [0xBB, 0xF0, 0x12] [(0x1310, 0xF0)]))
      0x30 0x30 0x20 0x30 0x24 0x0203 [0xBB, 0xF0, 0x12] 0x0200 [(0x1310, 0xF0)] [] = true := by decide

/-- V120: ``SBC #$01 (0xEB)``. -/
theorem test_V120_sbc :
    ends (step (start .binaryOnly 0x00 0x00 0x00 0xFD 0x25 0x0200 [0xEB, 0x01] []))
      0xFF 0x00 0x00 0xFD 0xA4 0x0202 [0xEB, 0x01] 0x0200 [] [] = true := by decide

/-- V121: ``NOP (0x1A)``. -/
theorem test_V121_nop :
    ends (step (start .binaryOnly 0x00 0x00 0x00 0xFD 0x24 0x0200 [0x1A] []))
      0x00 0x00 0x00 0xFD 0x24 0x0201 [0x1A] 0x0200 [] [] = true := by decide

/-- V122: ``NOP #$FF (0x80)``. -/
theorem test_V122_nop :
    ends (step (start .binaryOnly 0x00 0x00 0x00 0xFD 0x24 0x0200 [0x80, 0xFF] []))
      0x00 0x00 0x00 0xFD 0x24 0x0202 [0x80, 0xFF] 0x0200 [] [] = true := by decide

/-- V126: ``NOP $12F0,X (0x1C)``. -/
theorem test_V126_nop :
    ends (step (start .binaryOnly 0x00 0x20 0x00 0xFD 0x24 0x0200 [0x1C, 0xF0, 0x12] []))
      0x00 0x20 0x00 0xFD 0x24 0x0203 [0x1C, 0xF0, 0x12] 0x0200 [] [] = true := by decide

/-- V128: ``UNK (0x02)``. -/
theorem test_V128_unk :
    ends (step (start .binaryOnly 0x01 0x02 0x03 0xFD 0x24 0x0200 [0x02, 0xFF] []))
      0x01 0x02 0x03 0xFD 0x24 0x0201 [0x02, 0xFF] 0x0200 [] [] = true := by decide

/-! ### Interrupts, reset, `BRK` -/

/-- I4: seven cycles of the reset sequence. -/
def resetStart : State :=
  let m := [(0xFFFD, 0x02), (0x0200, 0xA9), (0x0201, 0xF1)].foldl (fun m c => Memory.write m c.1 c.2) ([] : Memory)
  let st := SeqState.poweredOn { PowerOnValues.zero with a := 0xAA, x := 0xBB, y := 0xCC, p := 0x02, pc := 0x1234 } m
  { (start .binaryOnly 0 0 0 0 0 0 [] []) with seq := st }

/-- The state a step answers, or the one it started from. -/
def nextOf (s : State) : State :=
  match step s with
  | .next t => t
  | .fault _ => s
  | .refused _ => s

/-- I4: `A=AA X=BB Y=CC S=FD P=06`, the accessor of `PC` still 1234. -/
theorem test_I4_reset : (nextOf resetStart).seq.regs = { a := 0xAA, x := 0xBB, y := 0xCC, s := 0xFD, p := 0x06, pc := 0x1234 } ∧
    (nextOf resetStart).seq.ready.pc = 0x0200 := by decide

/-- I4: the seven reads. -/
theorem test_I4_bus : resetStart.seq.busTrace resetStart.params 7 =
    [.read 0x1234 0, .read 0x1234 0, .read 0x0100 0, .read 0x01FF 0, .read 0x01FE 0, .read 0xFFFC 0, .read 0xFFFD 2] := by
  decide

/-- I4: the eighth and ninth cycles, the first instruction, from where the reset vector points. -/
theorem test_I4_first_instruction : (nextOf (nextOf resetStart)).seq.regs =
    { a := 0xF1, x := 0xBB, y := 0xCC, s := 0xFD, p := 0x84, pc := 0x0202 } := by decide

/-- I1, once the `NOP` has run and the host has asserted the line. -/
def irqStart : State :=
  let s := start .binaryOnly 0 0 0 0xFD 0xA1 0x0201 [0xEA] [(0x0200, 0xEA), (0xFFFF, 0x07), (0x0700, 0xEA)]
  s.setSeq { s.seq with irqLine := true }

/-- I1: the seven accesses of the entry. -/
theorem test_I1_irq_bus : irqStart.seq.busTrace irqStart.params 7 =
    [.read 0x0201 0xEA, .read 0x0201 0xEA, .write 0x01FD 0x02, .write 0x01FC 0x01, .write 0x01FB 0xA1, .read 0xFFFE 0,
      .read 0xFFFF 0x07] := by decide

/-- I1: `S=FA P=A5`, the accessor of `PC` still 0201, `Q = [SET_PC_AD]`. -/
theorem test_I1_irq_entry : (nextOf irqStart).seq.regs = { a := 0, x := 0, y := 0, s := 0xFA, p := 0xA5, pc := 0x0201 } ∧
    (nextOf irqStart).seq.q = [.setPcAd] ∧ (nextOf irqStart).seq.ready.pc = 0x0700 := by decide

/-- I3: both lines asserted before the first cycle. -/
def bothStart : State :=
  let s := start .binaryOnly 0 0 0 0xFD 0x20 0x0200 [0xEA]
    [(0xFFFB, 0x08), (0xFFFF, 0x07), (0x0800, 0x40), (0x0700, 0x40)]
  s.setSeq { s.seq with irqLine := true, nmiLine := true }

/-- I3: NMI first; then `RTI`; then the IRQ at once. -/
theorem test_I3_nmi_before_irq : (nextOf bothStart).seq.ready.pc = 0x0800 ∧
    (nextOf (nextOf bothStart)).seq.regs = { a := 0, x := 0, y := 0, s := 0xFD, p := 0x20, pc := 0x0200 } ∧
    (nextOf (nextOf (nextOf bothStart))).seq.ready.pc = 0x0700 := by decide

/-- I5. -/
def brkStart : State := start .binaryOnly 0 0 0 0xFD 0x21 0x0200 [0x00, 0xEA] [(0xFFFF, 0x06), (0x0600, 0xEA)]

/-- I5: the pushed status is 31, the pushed address 0202. -/
theorem test_I5_brk : brkStart.seq.busTrace brkStart.params 7 =
    [.read 0x0200 0x00, .read 0x0201 0xEA, .write 0x01FD 0x02, .write 0x01FC 0x02, .write 0x01FB 0x31, .read 0xFFFE 0,
      .read 0xFFFF 0x06] ∧ (nextOf brkStart).seq.p = 0x25 ∧ (nextOf brkStart).seq.ready.pc = 0x0600 := by decide

/-! ### Ill-formed terms -/

theorem test_illformed_too_few_operands : Asm.wellFormed ⟨.ldaAbx, [0xF0]⟩ = false := by decide
theorem test_illformed_too_many_operands : Asm.wellFormed ⟨.tax, [0x00]⟩ = false := by decide
theorem test_illformed_brk_without_padding : Asm.wellFormed ⟨.brk, []⟩ = false := by decide
theorem test_decode_rejects_nothing : decode [] = .error .noOpcode := rfl
theorem test_decode_rejects_missing_operand : decode [0xBD, 0xF0] = .error (.missingOperand .ldaAbx) := rfl

/-- A circuit of four nodes, from which each ill-formed one differs in one point. -/
def smallNet : Net :=
  { nodeCount := 4
    nodeTable := [pinRow 2 "in", { index := 3, pullUp := true, name := some "out" }]
    transistorTable := [{ name := "t0", gate := 2, terminal1 := 3, terminal2 := 0 }]
    gnd := 0
    pwr := 1
    readers := { a := [], x := [], y := [], s := [], p := [], pc := [] } }

theorem test_small_net_wellFormed : smallNet.wellFormed = true := by decide
theorem test_illformed_rail_absent : { smallNet with pwr := 4 }.wellFormed = false := by decide
theorem test_illformed_rails_equal : { smallNet with pwr := 0 }.wellFormed = false := by decide
theorem test_illformed_node_absent :
    { smallNet with nodeTable := [pinRow 4 "in"] }.wellFormed = false := by decide
theorem test_illformed_node_twice :
    { smallNet with nodeTable := [pinRow 2 "in", pinRow 2 "out"] }.wellFormed = false := by decide
theorem test_illformed_name_twice :
    { smallNet with nodeTable := [pinRow 2 "in", pinRow 3 "in"] }.wellFormed = false := by decide
theorem test_illformed_gate_absent : { smallNet with
    transistorTable := [{ name := "t0", gate := 4, terminal1 := 3, terminal2 := 0 }] }.wellFormed = false := by decide
theorem test_illformed_terminal_absent : { smallNet with
    transistorTable := [{ name := "t0", gate := 2, terminal1 := 3, terminal2 := 9 }] }.wellFormed = false := by decide
theorem test_illformed_transistor_twice : { smallNet with
    transistorTable := smallNet.transistorTable ++ smallNet.transistorTable }.wellFormed = false := by decide
theorem test_params_too_big : { Params.spec with busSize := 65537 }.wf = false := by decide

/-! ### Words of every family, from 30_encoding.md -/

theorem test_decode_load : decodeTableWord 24 0x12F0BD = some .ldaAbx := by decide
theorem test_decode_store : decodeTableWord 16 0x1096 = some .stxZpy := by decide
theorem test_decode_transfer : decodeTableWord 8 0x9A = some .txs := by decide
theorem test_decode_arithmetic : decodeTableWord 16 0x0169 = some .adcImm := by decide
theorem test_decode_logic : decodeTableWord 24 0x12342C = some .bitAbs := by decide
theorem test_decode_shift : decodeTableWord 8 0x6A = some .rorAcc := by decide
theorem test_decode_control : decodeTableWord 24 0x34FF6C = some .jmpInd := by decide
theorem test_decode_branch : decodeTableWord 16 0x7F90 = some .bcc := by decide
theorem test_decode_stack : decodeTableWord 8 0x28 = some .plp := by decide
theorem test_decode_flag : decodeTableWord 8 0xB8 = some .clv := by decide
theorem test_decode_undocumented : decodeTableWord 16 0x2033 = some .rlaIzy := by decide
theorem test_decode_unknown : decodeTableWord 8 0x9C = some .unk9C := by decide

/-- `withFetchWord` puts an instruction where the step after reset fetches it. -/
theorem test_withFetchWord : (nextOf (State.reset.withFetchWord 16 0xF1A9)).seq.a = 0xF1 := by decide

/-! ### SIM vectors -/

/-- A SIM of its own, the host's calls pending. -/
def simStart (sim : SimState) (calls : List HostCmd) : State :=
  { (start .binaryOnly 0 0 0 0xFD 0x24 0x0200 [] []) with sim := sim, host := calls }

/-- The ids of the nodes that are high. -/
def SimState.high (sim : SimState) : List Nat := (List.range sim.nodes.length).filter (fun i => (sim.node i).state)

/-- S1: the inverter as `Setup` leaves it. -/
def inverter : SimState := smallNet.build []

theorem test_S1_setup : inverter.high = [1] ∧ (inverter.trans 0).on = false ∧ (inverter.node 2).gates = [0] ∧
    (inverter.node 3).terminals = [0] ∧ (inverter.node 0).terminals = [0] := by decide

/-- S1 step 1 is one round and leaves 1 and 3 high. -/
def inverterSettled : SimState := (inverter.setState 3 true)

theorem test_S1_settle : inverter.settle Params.spec [2, 3] = .ok inverterSettled := by rfl

/-- S1 step 2: `out` falls when `in` is driven high. -/
theorem test_S1_write : (nextOf (simStart inverterSettled [.simWriteBit "in" .high])).sim.high = [1, 2] := by decide

/-- S1 step 6. -/
theorem test_S1_missing_name : step (simStart inverter [.simReadBit "nope"]) = .fault .configError := by rfl

/-- S2: a rail in the first slot is moved to the second (R121). -/
theorem test_S2_normalise : smallNet.normalise 0 3 = (3, 0) ∧ smallNet.normalise 3 0 = (3, 0) := by decide

/-- S3: `p` (node 3) high and `q` (node 4) pulled down: the scan is per node in insertion order (D2). -/
def charged : SimState :=
  ((({ smallNet with nodeCount := 5 }.bare []).setState 3 true).setNode 4 .low)

theorem test_S3_group_order : charged.groupValue [3, 4] = true ∧ charged.groupValue [4, 3] = false := by decide

/-- S4: a node that gates its own pull-down. -/
def oscillator : SimState :=
  { smallNet with
    nodeCount := 3
    nodeTable := [{ index := 2, pullUp := true, name := some "osc" }]
    transistorTable := [{ name := "t0", gate := 2, terminal1 := 2, terminal2 := 0 }] }.build []

/-- S4 with `SETTLE_ROUND_CAP = 1`. -/
theorem test_S4_nonconvergence :
    oscillator.settle { Params.spec with settleRoundCap := 1 } [2] = .error .nonConvergence := by rfl

/-- D24: `Init()` on a SIM that has been stepped, and `RunStartProgram()` before `Init()`. -/
theorem test_init_refused : step (simStart { inverter with phase := .stepped } [.simInit]) =
    .refused .simInitOutsideContract := by rfl
theorem test_start_refused : step (simStart inverter [.simRunStartProgram]) = .refused .simStartBeforeInit := by rfl

/-! ### Witnesses -/

/-- A machine at an instruction boundary whose host has called nothing. -/
def demo : State := start .binaryOnly 0x12 0x20 0x01 0xFD 0x24 0x0200 [0xBD, 0xF0, 0x12] [(0x1310, 0x7F)]

/-- The same with the NMOS decimal mode and `P.D = 1`. -/
def demoDecimal : State := start .nmos 0x12 0x20 0x01 0xFD 0x2C 0x0200 [0xBD, 0xF0, 0x12] []

theorem test_witness_ReadAfterWrite : ∃ m m' : Memory, m.wf = true ∧ m'.wf = true ∧ m ≠ [] ∧
    ∀ k, m.read k = m'.read k := ⟨[(5, 1)], [(5, 1)], rfl, rfl, by decide, fun _ => rfl⟩

theorem test_witness_BusRange : { Params.spec with busSize := 0x1000 }.busSize ≤ (0x1000 : Addr).toNat ∧
    (0x0FFF : Addr).toNat < { Params.spec with busSize := 0x1000 }.busSize := by decide

theorem test_witness_PowerOnLeaves : (State.reset.setHost [.seqPowerOn]).host = .seqPowerOn :: [] := rfl

theorem test_witness_ResetSequence : FullBus State.reset ∧ State.reset.host = [] ∧
    State.reset.seq.q = resetSequence ∧ State.reset.seq.nmiPrev = State.reset.seq.nmiLine := ⟨rfl, rfl, rfl, rfl⟩

theorem test_witness_DecodingTotal : decode [0xBD, 0xF0, 0x12] = .ok (⟨.ldaAbx, [0xF0, 0x12]⟩, []) := rfl

theorem test_witness_EncodeThenDecode : Asm.wellFormed ⟨.ldaAbx, [0xF0, 0x12]⟩ = true := by decide

theorem test_witness_DecodedStep : demo.host = [] ∧ demo.seq.ready.q = [] ∧
    demo.seq.ready.pc.toNat < demo.params.busSize ∧ demo.seq.ready.nmiPending = false ∧
    (demo.seq.irqLine = true → getFlag demo.seq.p .i = true) ∧
    decode [demo.seq.peek demo.seq.ready.pc, demo.seq.peek (demo.seq.ready.pc + 1), demo.seq.peek (demo.seq.ready.pc + 2)] =
      .ok (⟨.ldaAbx, [0xF0, 0x12]⟩, []) := ⟨rfl, rfl, by decide, rfl, nofun, rfl⟩

theorem test_witness_BeforeTheCycle : demo.seq.q = [] ∧ (nextOf irqStart).seq.q = [.setPcAd] ∧
    ∃ op rest, resetStart.seq.q = op :: rest ∧ op.isFree = false := ⟨by decide, by decide, _, _, rfl, rfl⟩

theorem test_witness_InterruptEntry_nmi : FullBus bothStart ∧ bothStart.host = [] ∧ bothStart.seq.ready.q = [] ∧
    bothStart.seq.ready.nmiPending = true := ⟨rfl, rfl, rfl, rfl⟩

theorem test_witness_InterruptEntry_irq : FullBus irqStart ∧ irqStart.host = [] ∧ irqStart.seq.ready.q = [] ∧
    irqStart.seq.ready.nmiPending = false ∧ irqStart.seq.irqLine = true ∧ getFlag irqStart.seq.p .i = false :=
  ⟨rfl, rfl, rfl, rfl, rfl, by decide⟩

theorem test_witness_InFlightFinishes : FullBus State.reset ∧ State.reset.host = [] ∧
    QueueShape State.reset.seq.q ∧ State.reset.seq.ready.q ≠ [] := ⟨rfl, rfl, resetSequence_shape, by decide⟩

/-- `LDA $12F0,X` after its opcode cycle, both interrupt lines raised since. -/
def midInstruction : State :=
  match demo.seq.clock demo.params with
  | .ok st => demo.setSeq { st with irqLine := true, nmiLine := true, p := 0x20 }
  | .error _ => demo

theorem test_witness_InFlightFinishes_instruction : FullBus midInstruction ∧ midInstruction.host = [] ∧
    QueueShape midInstruction.seq.q ∧ midInstruction.seq.ready.q ≠ [] ∧ midInstruction.seq.ready.nmiPending = true := by
  unfold FullBus QueueShape
  decide

/-- The load ends in flight, the NMI still pending. -/
theorem test_inFlight_load : (nextOf midInstruction).seq.a = 0x7F ∧ (nextOf midInstruction).seq.nmiPending = true := by decide

theorem test_witness_ResumeAfterInterrupt : FullBus demo ∧ (∃ t, takeInterrupt nmiVector demo = .next t) ∧
    (∃ t, takeInterrupt irqVector demo = .next t) ∧ ∃ t, exec .brk demo = .next t := ⟨rfl, ⟨_, rfl⟩, ⟨_, rfl⟩, ⟨_, rfl⟩⟩

theorem test_witness_StepIsCycles : FullBus demo ∧ demo.host = [] ∧ QueueShape demo.seq.q := ⟨rfl, rfl, .nil⟩

theorem test_witness_CycleCounts : FullBus demo ∧ demo.host = [] ∧ demo.seq.Idle := ⟨rfl, rfl, rfl, rfl, nofun, nofun⟩

theorem test_witness_BusTraces : FullBus demo ∧ demo.seq.Idle := ⟨rfl, rfl, rfl, nofun, nofun⟩

theorem test_witness_OneAccessPerCycle : QueueShape resetStart.seq.q ∧
    ∃ st', resetStart.seq.clock resetStart.params = .ok st' := ⟨resetSequence_shape, _, rfl⟩

theorem test_witness_QueueShapeKept : QueueShape demo.seq.q ∧ (∃ t, step demo = .next t) ∧
    ∃ st', demo.seq.clock demo.params = .ok st' := ⟨.nil, ⟨_, rfl⟩, ⟨_, rfl⟩⟩

theorem test_witness_MemoryFormKept : MemoryForm demo ∧ ∃ t, step demo = .next t := ⟨⟨by decide, by decide⟩, _, rfl⟩

theorem test_witness_BreakUnusedKept : ∃ t, step demo = .next t := ⟨_, rfl⟩

theorem test_witness_EnginesIndependent : (∃ t, step demo = .next t ∧ demo.host = []) ∧
    (∃ s t c rest, step s = .next t ∧ s.host = c :: rest ∧ c.onSim = true) ∧
    ∃ s t c rest, step s = .next t ∧ s.host = c :: rest ∧ c.onSim = false :=
  ⟨⟨_, rfl, rfl⟩, ⟨simStart inverterSettled [.simWriteBit "in" .high], _, _, _, rfl, rfl, rfl⟩,
    ⟨simStart inverter [.seqIrqLine true], _, _, _, rfl, rfl, rfl⟩⟩

theorem test_witness_LatchesUnobservable : FullBus demo ∧ demo.host = [] ∧
    LatchAlike demo.seq { demo.seq with adl := 0x55, dl := 0x66 } := ⟨rfl, rfl, rfl, .inl rfl⟩
theorem test_witness_LatchesUnobservable_reset : FullBus resetStart ∧ resetStart.host = [] ∧
    LatchAlike resetStart.seq { resetStart.seq with adh := 0x55, eal := 0x66 } := ⟨rfl, rfl, rfl, .inr (.inl rfl)⟩
theorem test_witness_LatchesUnobservable_freeTail : FullBus (nextOf irqStart) ∧ (nextOf irqStart).host = [] ∧
    LatchAlike (nextOf irqStart).seq { (nextOf irqStart).seq with eah := 0x55, dl := 0x66 } :=
  ⟨rfl, rfl, rfl, .inr (.inr ⟨by decide, rfl, rfl⟩)⟩

theorem test_witness_SeqNeverStops : FullBus demo ∧ demo.host = [] := ⟨rfl, rfl⟩
theorem test_witness_LoadResults : FullBus demo := rfl
theorem test_witness_StoreResults : FullBus demo := rfl
theorem test_witness_TransferResults : FullBus demo := rfl
theorem test_witness_AdcResults : FullBus demo ∧ (demo.params.decimalMode = .binaryOnly ∨ getFlag demo.seq.p .d = false) ∧
    FullBus demoDecimal ∧ demoDecimal.params.decimalMode = .nmos ∧ getFlag demoDecimal.seq.p .d = true :=
  ⟨rfl, .inl rfl, rfl, rfl, by decide⟩
theorem test_witness_SbcResults : FullBus demo ∧ (demo.params.decimalMode = .binaryOnly ∨ getFlag demo.seq.p .d = false) ∧
    FullBus demoDecimal ∧ demoDecimal.params.decimalMode = .nmos ∧ getFlag demoDecimal.seq.p .d = true :=
  ⟨rfl, .inr (by decide), rfl, rfl, by decide⟩
theorem test_witness_DecimalDigits : (0x99 : Byte).toNat / 16 ≤ 9 ∧ (0x99 : Byte).toNat % 16 ≤ 9 := by decide

/-- R261's examples: `0x58 + 0x46 + 1` and `0x99 + 0x01`, `N` and `V` with them. -/
theorem test_decimal_flags :
    addDecimal 0x08 0x58 0x46 true = { a := 0x05, p := 0xC9 } ∧ addDecimal 0x08 0x99 0x01 false = { a := 0x00, p := 0x89 } := by
  decide
theorem test_witness_LogicResults : FullBus demo := rfl
theorem test_witness_CompareResults : FullBus demo := rfl
theorem test_witness_MemoryModifyResults : FullBus demo := rfl
theorem test_witness_RegisterModifyResults : FullBus demo := rfl
theorem test_witness_BranchResults : FullBus demo := rfl
theorem test_witness_JumpResults : FullBus demo := rfl
theorem test_witness_CallAndReturn : FullBus demo ∧ ∃ t, exec .jsr demo = .next t := ⟨rfl, _, rfl⟩
theorem test_witness_BrkResult : FullBus demo := rfl
theorem test_witness_RtiResult : FullBus demo := rfl
theorem test_witness_StackResults : FullBus demo := rfl
theorem test_witness_FlagResults : FullBus demo := rfl
theorem test_witness_NoOpResults : FullBus demo := rfl
theorem test_witness_ShiftLogicResults : FullBus demo := rfl
theorem test_witness_ArithmeticCompositeResults : FullBus demo ∧
    (demo.params.decimalMode = .binaryOnly ∨ getFlag demo.seq.p .d = false) ∧
    FullBus demoDecimal ∧ demoDecimal.params.decimalMode = .nmos ∧ getFlag demoDecimal.seq.p .d = true :=
  ⟨rfl, .inl rfl, rfl, rfl, by decide⟩
theorem test_witness_CombinedLoadStoreResults : FullBus demo := rfl
theorem test_witness_ImmediateCompositeResults : FullBus demo := rfl
theorem test_witness_ArrResults : FullBus demo ∧ (demo.params.decimalMode = .binaryOnly ∨ getFlag demo.seq.p .d = false) ∧
    FullBus demoDecimal ∧ demoDecimal.params.decimalMode = .nmos ∧ getFlag demoDecimal.seq.p .d = true :=
  ⟨rfl, .inl rfl, rfl, rfl, by decide⟩
theorem test_witness_LatchFrame : FullBus demo ∧ (∃ t, exec .inx demo = .next t) ∧ Instr.inx.format ≠ .izx ∧
    Instr.inx.format ≠ .izy ∧ Instr.inx.format ≠ .ind ∧ Instr.inx.format = .imp ∧ Instr.inx.cls ≠ .brk ∧
    Instr.inx.cls ∈ [AccessClass.imp, .acc, .unk, .push, .jmp, .jmpind, .jsr, .brk, .write] :=
  ⟨rfl, ⟨_, rfl⟩, by decide, by decide, by decide, rfl, by decide, by decide⟩

theorem test_witness_SetupFaults : (simStart inverter [.simSetup { smallNet with pwr := 0 }]).host =
    .simSetup { smallNet with pwr := 0 } :: [] ∧ ¬ { smallNet with pwr := 0 }.gnd ≠ { smallNet with pwr := 0 }.pwr :=
  ⟨rfl, by decide⟩
theorem test_witness_SetupBuilds : setup smallNet [] = some inverter := by rfl

theorem test_witness_ConductiveKept : Conductive inverterSettled ∧
    ∃ t, step (simStart inverterSettled [.simWriteBit "in" .high]) = .next t := by
  refine ⟨?_, _, rfl⟩
  exact (settle_kept (p := Params.spec) (seeds := [2, 3]) test_S1_settle).2
    ((build_built smallNet []).conductive (by decide))

theorem test_witness_SettleFrame : inverter.settle Params.spec [2, 3] = .ok inverterSettled ∧
    oscillator.settle { Params.spec with settleRoundCap := 1 } [2] = .error .nonConvergence ∧
    (∀ n ∈ [0, 1], inverter.isRail n = true) ∧ { Params.spec with settleRoundCap := 0 }.settleRoundCap = 0 ∧
    ∃ n ∈ [2], inverter.isRail n = false := ⟨test_S1_settle, test_S4_nonconvergence, by decide, rfl, by decide⟩

theorem test_witness_SettleFrame_node : Conductive inverterSettled ∧ 3 < inverterSettled.nodes.length ∧
    inverterSettled.isRail 3 = false ∧ 1 < inverterSettled.nodes.length ∧ inverterSettled.isRail 1 = true :=
  ⟨test_witness_ConductiveKept.1, by decide, by decide, by decide, by decide⟩

/-- S1: `in` driven high: recalculating it switches the transistor, and its end that is no rail is next (R131). -/
theorem test_S1_recalc :
    (Round.recalcNode { sim := inverterSettled.setNode 2 .high, next := [] } 2).next = [3] ∧
      ((Round.recalcNode { sim := inverterSettled.setNode 2 .high, next := [] } 2).sim.trans 0).on = true := by decide

theorem test_witness_CircuitFixed : ∃ s t, step s = .next t ∧ ∀ net rest, s.host ≠ .simSetup net :: rest :=
  ⟨simStart inverterSettled [.simWriteBit "in" .high], _, rfl, nofun⟩

theorem test_witness_GroupValueRule : charged.gnd ∈ [3, 0] ∧ (charged.gnd ∉ [3, 1] ∧ charged.pwr ∈ [3, 1]) ∧
    (charged.gnd ∉ [4, 3] ∧ charged.pwr ∉ [4, 3] ∧ charged.decider [4, 3] = some 4) ∧ charged.decider [2] = none := by decide

theorem test_witness_GroupIsReachable : Conductive inverterSettled ∧ 3 < inverterSettled.nodes.length :=
  ⟨test_witness_ConductiveKept.1, by decide⟩

theorem test_witness_PinWrites : (simStart inverter [.simWriteBit "in" .high]).host = .simWriteBit "in" .high :: [] ∧
    inverter.lookup "in" = .ok 2 ∧ inverter.isRail 2 = false ∧
    (∃ sim', (inverter.setNode 2 .high).settle Params.spec [2] = .ok sim') ∧
    ∃ t, step (simStart inverter [.simWriteBit "in" .high]) = .next t := ⟨rfl, rfl, by decide, ⟨_, rfl⟩, _, rfl⟩

/-- S4's circuit with a cap of one round, its node's own pull-up written. -/
def oscillatorStart : State :=
  { simStart oscillator [.simWriteBit "osc" .high] with params := { Params.spec with settleRoundCap := 1 } }

theorem test_witness_PinWrites_nonconvergence : oscillatorStart.host = .simWriteBit "osc" .high :: [] ∧
    oscillatorStart.sim.lookup "osc" = .ok 2 ∧ oscillatorStart.sim.isRail 2 = false ∧
    (oscillatorStart.sim.setNode 2 .high).settle oscillatorStart.params [2] = .error .nonConvergence :=
  ⟨rfl, rfl, by decide, rfl⟩

/-- A circuit whose rails have names. -/
def railNamed : SimState := { smallNet with nodeTable := [pinRow 0 "vss"] }.build []

theorem test_witness_PinWrites_rail : railNamed.lookup "vss" = .ok 0 ∧ railNamed.isRail 0 = true := ⟨rfl, by decide⟩
theorem test_witness_PinWrites_missing : ∀ i, (railNamed.node i).name ≠ some "in" := by
  intro i
  by_cases h : i < 4
  · have key : ∀ i, i < 4 → (railNamed.node i).name ≠ some "in" := by decide
    exact key i h
  · rw [SimState.node, List.getD_eq_getElem?_getD, List.getElem?_eq_none (Nat.le_of_not_lt h)]
    exact nofun

theorem test_witness_PinReads : 0 ≤ 16 ∧ (∃ v, inverter.readBits "in" 0 = .ok v) ∧
    (simStart inverter [.simReadBits "in" 0]).host = .simReadBits "in" 0 :: [] := ⟨by decide, ⟨_, rfl⟩, rfl⟩

theorem test_witness_PinReads_missing : ∀ i, (railNamed.node i).name ≠ some ("in" ++ toString 0) := by
  intro i
  by_cases h : i < 4
  · have key : ∀ i, i < 4 → (railNamed.node i).name ≠ some ("in" ++ toString 0) := by decide
    exact key i h
  · rw [SimState.node, List.getD_eq_getElem?_getD, List.getElem?_eq_none (Nat.le_of_not_lt h)]
    exact nofun

/-- The pins of the chip and nothing else. -/
def pins : SimState := Net.pinsOnly.bare []

theorem test_witness_PinReads_bits : pins.readBits "db" 8 = .ok 0 := by rfl
theorem test_witness_PinReads_widest : 16 ≤ 16 ∧ pins.readBits "ab" 16 = .ok 0 := ⟨by decide, by rfl⟩

theorem exists_ok {α : Type} {x : Except Fault α} (h : x.isOk = true) : ∃ a, x = .ok a := by
  cases x with
  | ok a => exact ⟨a, rfl⟩
  | error e => cases h

theorem test_witness_HalfClockBus : (∃ sim', pins.halfClock Params.spec = .ok sim') ∧ (pins.node 2).state = false ∧
    (∃ sim', ((pins.setNode 2 .high).setState 2 true).halfClock Params.spec = .ok sim') := ⟨exists_ok rfl, by decide, exists_ok rfl⟩

/-- The six pins `Init()` forces. -/
def sixPins : SimState :=
  { smallNet with
    nodeCount := 8
    nodeTable := [pinRow 2 "clk0", pinRow 3 "res", pinRow 4 "rdy", pinRow 5 "so", pinRow 6 "irq", pinRow 7 "nmi"] }.bare []

/-- A fresh SIM has no driven pin. -/
theorem pins_undriven : Undriven pins := by
  intro i
  by_cases h : i < pins.nodes.length
  · have key : ∀ i, i < pins.nodes.length → (pins.node i).floating = true := by decide
    exact key i h
  · rw [SimState.node, List.getD_eq_getElem?_getD, List.getElem?_eq_none (Nat.le_of_not_lt h)]
    rfl

theorem test_witness_BootOfSim : (∃ sim', sixPins.init Params.spec = .ok sim') ∧ sixPins.phase = .fresh ∧
    (simStart { inverter with phase := .booted } [.simInit]).sim.phase ≠ .fresh ∧
    (simStart inverter [.simRunStartProgram]).sim.phase ≠ .booted := ⟨exists_ok (by decide), by decide, by decide, by decide⟩

/-- Whether `clk0` is at the level it was last driven to. -/
def clockFollows (sim : SimState) : Bool := (sim.node 2).state == (sim.node 2).pullUp

/-- The same after each of `n` half-clocks. -/
def followsFor : Nat → SimState → Bool
  | 0, _ => true
  | n + 1, sim =>
    match sim.halfClock Params.spec with
    | .ok m => clockFollows m && followsFor n m
    | .error _ => false

theorem followsFor_spec {n k : Nat} {sim m : SimState} (h : followsFor n sim = true) (h1 : 1 ≤ k) (h2 : k ≤ n)
    (hk : SimState.halfClocks Params.spec k sim = .ok m) : (m.node 2).state = (m.node 2).pullUp := by
  induction n generalizing k sim with
  | zero => omega
  | succ n ih =>
    obtain ⟨k, rfl⟩ := Nat.exists_eq_succ_of_ne_zero (by omega : k ≠ 0)
    obtain ⟨x, hx, hk⟩ := bind_ok hk
    simp only [followsFor, hx, Bool.and_eq_true] at h
    cases k with
    | zero => cases hk; simpa [clockFollows] using h.1
    | succ k => exact ih h.2 (by omega) (by omega) hk

theorem test_witness_BootOfSim_start : { pins with phase := .booted }.phase = .booted ∧
    (∃ sim', pins.runStartProgram Params.spec = .ok sim') ∧ pins.lookup "clk0" = .ok 2 ∧ (pins.node 2).state = false ∧
    ∀ k m, 1 ≤ k → k ≤ 19 → SimState.halfClocks Params.spec k pins = .ok m → (m.node 2).state = (m.node 2).pullUp :=
  ⟨rfl, exists_ok rfl, rfl, by decide, fun _ _ h1 h2 => followsFor_spec (by decide) h1 h2⟩

theorem test_witness_BootOfSim_moves : (∃ t, step (simStart pins [.simHalfClock]) = .next t) ∧ pins.phase = .fresh ∧
    Undriven pins ∧ HostCmd.simHalfClock.movesSim = true := ⟨⟨_, rfl⟩, rfl, pins_undriven, rfl⟩

theorem test_witness_BootOfSim_setup : ∃ t, step (simStart inverter [.simSetup smallNet]) = .next t := ⟨_, rfl⟩

/-- R441: `Init()` still runs after calls that changed nothing (R133 (d), R144, R150), and no longer after a pin write. -/
theorem test_init_after_nothing :
    (nextOf (nextOf (simStart sixPins [.simExecuteCycles 0, .simInit]))).sim.phase = .booted ∧
      (nextOf (nextOf (simStart sixPins [.simSettle [], .simInit]))).sim.phase = .booted ∧
      (nextOf (nextOf (simStart sixPins [.simWriteBits "db" 0 5, .simInit]))).sim.phase = .booted ∧
      step (nextOf (simStart sixPins [.simWriteBit "rdy" .high, .simInit])) = .refused .simInitOutsideContract :=
  ⟨by decide, by decide, by decide, rfl⟩

/-! ### Any bus -/

/-- A bus of one device: every read answers how many accesses there have been, but for the program at `0200`; every write
is one more. -/
def countingBus : Bus Nat :=
  { read := fun n a => .ok (if a = 0x0200 then 0xAD else BitVec.ofNat 8 n, n + 1)
    write := fun n _ _ => .ok (n + 1) }

theorem test_witness_AnyBus : QueueShape demo.seq.q ∧ QueueShape resetStart.seq.q := ⟨.nil, resetSequence_shape⟩

/-- `LDA abs` on it: four reads, each seeing what the ones before it did, the last into `A`. -/
theorem test_counting_bus : (clocksOn countingBus .binaryOnly 4 { env := 0, engine := demo.seq }).toOption.map
    (fun x => (x.env, x.engine.a, x.engine.pc)) = some (4, 3, 0x0203) := by decide

end Sys2Proof.Machine
end

/-! PROOFS. Neither engine reaches the other (00_scope.md R2, R6). -/

namespace Sys2Proof.Machine

/-- Everything a call of the host can do, in one line: it replaces one engine's state, that of the engine it acts on. -/
theorem runCmd_replaces {c : HostCmd} {s t : State} (h : runCmd c s = .next t) :
    (c.onSim = true ∧ ∃ sim, t = s.setSim sim) ∨ (c.onSim = false ∧ ∃ st, t = s.setSeq st) := by
  cases hc : c.onSim with
  | false => exact .inr ⟨rfl, _, (runCmd_seq h hc).1⟩
  | true =>
    refine .inl ⟨rfl, ?_⟩
    by_cases hs : ∃ net, c = .simSetup net
    · obtain ⟨net, rfl⟩ := hs
      obtain ⟨sim, -, ht⟩ := runCmd_setup h
      exact ⟨sim, ht⟩
    · exact ⟨_, (runCmd_sim h hc (not_exists.mp hs)).1⟩

/-- Settles O22: a step with no call pending by the frame of a run of SEQ, a call by the one engine it replaces. -/
theorem enginesIndependent : Obligations.EnginesIndependent := by
  intro s t h
  cases hh : s.host with
  | nil =>
    obtain ⟨hsim, hparams, hhost, -⟩ := stepSeq_frame hh h
    exact ⟨hparams, fun _ => ⟨hsim, hhost.trans hh⟩, nofun⟩
  | cons c rest =>
    rw [step_eq_runCmd hh] at h
    obtain ⟨hc, sim, rfl⟩ | ⟨hc, st, rfl⟩ := runCmd_replaces h
    · refine ⟨rfl, nofun, fun c' rest' e => ?_⟩
      cases e
      exact ⟨rfl, fun _ => rfl, fun hf => Bool.noConfusion (hc.symm.trans hf)⟩
    · refine ⟨rfl, nofun, fun c' rest' e => ?_⟩
      cases e
      exact ⟨rfl, fun ht => Bool.noConfusion (hc.symm.trans ht), fun _ => rfl⟩

end Sys2Proof.Machine

/-! PROOFS. The bus is a parameter of both engines (00_scope.md R6; 20_memory.md R60, R61, R65, R67). -/

namespace Sys2Proof.Machine

/-! ### SEQ: one request each `Clock()` -/

/-- What a `Clock()` decides, alike on any bus: to run one operation, or to fetch an opcode (R171). -/
theorem clock_runs_or_fetches (st : SeqState) :
    (∃ op rest b, op.isFree = false ∧ (QueueShape st.q → op ≠ .opc) ∧
      (∀ p, st.clock p = runOp p op { st.ready with nmiPending := b, q := rest }) ∧
      ∀ (mode : DecimalMode) (σ : Type) (bus : Bus σ) (env : σ), clockOn bus mode { env := env, engine := st } =
        runOpOn bus mode op { env := env, engine := { st.ready with nmiPending := b, q := rest } }) ∨
    (st.ready.q = [] ∧ st.ready.poll = .opcode) := by
  obtain hq | ⟨op, rest, hq, hf⟩ := st.ready_q
  · cases hp : st.ready.poll with
    | nmi =>
      refine .inl ⟨.intT0, (interruptSequence nmiVector).drop 1, false, rfl, fun _ => nofun, fun p => ?_, fun _ _ _ _ => ?_⟩
      · simp only [SeqState.clock, SeqState.refill, SeqState.dispatch, hq, hp]; rfl
      · simp only [clockOn, hq, hp]
    | irq =>
      refine .inl ⟨.intT0, (interruptSequence irqVector).drop 1, st.ready.nmiPending, rfl, fun _ => nofun, fun p => ?_,
        fun _ _ _ _ => ?_⟩
      · simp only [SeqState.clock, SeqState.refill, SeqState.dispatch, hq, hp]; rfl
      · simp only [clockOn, hq, hp]
    | opcode => exact .inr ⟨hq, rfl⟩
  · refine .inl ⟨op, rest, st.ready.nmiPending, hf, fun h => h.ready.2.1 op (hq ▸ List.mem_cons_self), fun p => ?_,
      fun _ _ _ _ => ?_⟩
    · simp only [SeqState.clock, SeqState.refill, SeqState.popRun, hq]
    · simp only [clockOn, hq]

/-- What the fetched opcode leaves to the cycles that follow it (R171, R175). -/
def SeqState.fetched (mode : DecimalMode) (st : SeqState) (opcode : Byte) : Except Fault SeqState :=
  (decodeSequence opcode).map (fun ops => MicroOp.effect mode .opc 0 { st with q := ops.drop 1 })

/-- The opcode fetch on any bus: a read at `PC`, then the decoded queue (R171). -/
theorem clockOn_fetch {σ : Type} (bus : Bus σ) (mode : DecimalMode) (env : σ) {st : SeqState} (hq : st.ready.q = [])
    (hp : st.ready.poll = .opcode) :
    clockOn bus mode { env := env, engine := st } = bus.serve env (.read st.ready.pc) (st.ready.fetched mode) := by
  simp only [clockOn, hq, hp]; rfl

/-- A `Clock()` of SEQ is one request and a continuation, both of the engine alone (R65, R170). -/
theorem clockOn_serves (mode : DecimalMode) {st : SeqState} (h : QueueShape st.q) :
    ∃ req k, req ≠ .idle ∧ ∀ (σ : Type) (bus : Bus σ) (env : σ),
      clockOn bus mode { env := env, engine := st } = bus.serve env req k := by
  obtain ⟨op, rest, b, hf, ho, -, hrun⟩ | ⟨hq, hp⟩ := clock_runs_or_fetches st
  · exact ⟨_, fun d => .ok (op.effect mode d { st.ready with nmiPending := b, q := rest }),
      op.request_ne_idle mode _ hf (ho h), hrun mode⟩
  · exact ⟨.read st.ready.pc, st.ready.fetched mode, nofun, fun σ bus env => clockOn_fetch bus mode env hq hp⟩

/-! ### SIM: at most one request each half-clock -/

/-- A half-clock of SIM up to its bus access: the SIM that asks, and what it asks (R67, R151). -/
def SimState.asksBus (p : Params) (sim : SimState) : Except Fault (SimState × BusRequest) := do
  let c ← sim.readBit "clk0"
  let mid ← sim.writeBit p "clk0" (levelOf (!c))
  let req ← mid.syncRequest (!c)
  .ok (mid, req)

/-- What SIM does with the byte a request answered: a read's goes onto the data pins (R151). -/
def SimState.takesByte (p : Params) (mid : SimState) (req : BusRequest) (d : Byte) : Except Fault SimState :=
  match req with
  | .read _ => mid.writeBits p "db" 8 d.toNat
  | .idle | .write _ _ => .ok mid

/-- A half-clock serves the request it asks for, if it gets that far (R150, R151). -/
theorem halfClockOn_eq {σ : Type} (bus : Bus σ) (p : Params) (env : σ) (sim : SimState) :
    halfClockOn bus p { env := env, engine := sim } =
      sim.asksBus p >>= fun x => bus.serve env x.2 (x.1.takesByte p x.2) := by
  simp only [SimState.asksBus, bind_assoc]
  rfl

/-- A half-clock of SIM is one request, if it gets that far, and a continuation, both of the engine alone. -/
theorem halfClockOn_serves (p : Params) (sim : SimState) :
    ∃ (before : Except Fault BusRequest) (k : Byte → Except Fault SimState), ∀ (σ : Type) (bus : Bus σ) (env : σ),
      halfClockOn bus p { env := env, engine := sim } =
        (match before with
          | .ok req => bus.serve env req k
          | .error f => .error f) := by
  cases h : sim.asksBus p with
  | error f => exact ⟨.error f, fun _ => .error f, fun σ bus env => by rw [halfClockOn_eq, h]; rfl⟩
  | ok x => exact ⟨.ok x.2, x.1.takesByte p x.2, fun σ bus env => by rw [halfClockOn_eq, h]; rfl⟩

/-! ### On the reference bus -/

/-- An effect neither reads nor writes the memory image (R175). -/
theorem MicroOp.effect_withMem (mode : DecimalMode) (op : MicroOp) (d : Byte) (st : SeqState) (m : Memory) :
    op.effect mode d { st with mem := m } = { op.effect mode d st with mem := m } := by
  obtain ⟨hirq, hnmi, hprev, hpending⟩ := op.effect_lines mode d st
  have h := op.effect_withInputs st.irqLine st.nmiLine st.nmiPrev st.nmiPending m mode d st
  refine h.trans ?_
  rw [SeqState.withInputs, ← hirq, ← hnmi, ← hprev, ← hpending]

/-- SEQ with its memory as the environment's, and a stale image in its own field, which nothing on a bus reads. -/
def SeqState.onReference (stale : Memory) (st : SeqState) : OnBus Memory SeqState :=
  { env := st.mem, engine := { st with mem := stale } }

/-- On the reference bus an operation on a bus is the operation SEQ runs, fault for fault (R61, R62). -/
theorem runOpOn_referenceBus (p : Params) (op : MicroOp) (st : SeqState) :
    runOpOn (referenceBus p) p.decimalMode op { env := st.mem, engine := st } =
      (runOp p op st).map (SeqState.onReference st.mem) := by
  have heffect : ∀ d, (op.effect p.decimalMode d st).onReference st.mem =
      ⟨st.mem, op.effect p.decimalMode d st⟩ := fun d => by
    rw [SeqState.onReference, op.effect_mem, ← op.effect_withMem]
  cases hr : op.request p.decimalMode st with
  | idle => simp only [runOpOn_eq, runOp, hr, Bus.serve, Except.map, heffect]
  | read a =>
    by_cases ha : a.toNat < p.busSize
    · simp only [runOpOn_eq, runOp, hr, Bus.serve, referenceBus, SeqState.memRead, if_pos ha, Except.map, heffect]
      rfl
    · simp only [runOpOn_eq, runOp, hr, Bus.serve, referenceBus, SeqState.memRead, if_neg ha, Except.map]
  | write a v =>
    by_cases ha : a.toNat < p.busSize
    · have hstored : (op.effect p.decimalMode v (st.poke a v)).onReference st.mem =
          ⟨st.mem.write a.toNat v, op.effect p.decimalMode 0 st⟩ := by
        rw [op.effect_of_write hr 0 v]
        simp only [SeqState.onReference, op.effect_mem, SeqState.poke_mem, ← op.effect_withMem]
        rfl
      simp only [runOpOn_eq, runOp, hr, Bus.serve, referenceBus, SeqState.memWrite, if_pos ha, Except.map, hstored]
    · simp only [runOpOn_eq, runOp, hr, Bus.serve, referenceBus, SeqState.memWrite, if_neg ha, Except.map]

/-- On the reference bus the opcode fetch is the one SEQ makes, fault for fault. -/
theorem clockOn_referenceBus_fetch (p : Params) {st : SeqState} (hq : st.ready.q = []) (hp : st.ready.poll = .opcode) :
    clockOn (referenceBus p) p.decimalMode { env := st.mem, engine := st } =
      (st.clock p).map (SeqState.onReference st.mem) := by
  rw [clockOn_fetch _ _ _ hq hp]
  by_cases ha : st.ready.pc.toNat < p.busSize
  · obtain ⟨ops, hd, -⟩ := decodeSequence_cases (st.mem.read st.ready.pc.toNat)
    have hm : st.mem = st.ready.mem := st.ready_mem.symm
    simp only [SeqState.clock, SeqState.refill, SeqState.dispatch, hq, hp, Bus.serve, referenceBus,
      SeqState.memRead, SeqState.peek, st.ready_mem, if_pos ha, hd, SeqState.fetched]
    rw [hm]
    rfl
  · simp only [SeqState.clock, SeqState.refill, SeqState.dispatch, hq, hp, Bus.serve, referenceBus,
      SeqState.memRead, if_neg ha, Except.map]

/-- On the reference bus `clockOn` is the `Clock()` that a step runs, fault for fault. -/
theorem clockOn_referenceBus (p : Params) (st : SeqState) :
    clockOn (referenceBus p) p.decimalMode { env := st.mem, engine := st } =
      (st.clock p).map (SeqState.onReference st.mem) := by
  obtain ⟨op, rest, b, -, -, hclock, hrun⟩ | ⟨hq, hp⟩ := clock_runs_or_fetches st
  · rw [hclock, hrun]
    simpa using runOpOn_referenceBus p op { st.ready with nmiPending := b, q := rest }
  · exact clockOn_referenceBus_fetch p hq hp

/-- Driving nodes makes no bus access (R144). -/
theorem setNodes_mem (v : Nat) (l : List Nat) (sim : SimState) : (sim.setNodes v l).mem = sim.mem := by
  induction l generalizing v sim with
  | nil => rfl
  | cons n l ih => exact ih ..

/-- A pin write makes no bus access (R140). -/
theorem writeBit_mem {p : Params} {sim sim' : SimState} {name : String} {l : Level}
    (h : sim.writeBit p name l = .ok sim') : sim'.mem = sim.mem := by
  obtain ⟨n, -, h⟩ := bind_ok h
  exact (settle_kept h).1.mem

/-- Nor does a multi-bit write (R144). -/
theorem writeBits_mem {p : Params} {sim sim' : SimState} {base : String} {n v : Nat}
    (h : sim.writeBits p base n v = .ok sim') : sim'.mem = sim.mem := by
  obtain ⟨ns, -, h⟩ := bind_ok h
  exact (settle_kept h).1.mem.trans (setNodes_mem ..)

/-- SIM with its memory as the environment's, and a stale image in its own field, which nothing on a bus reads. -/
def SimState.onReference (stale : Memory) (sim : SimState) : OnBus Memory SimState :=
  { env := sim.mem, engine := { sim with mem := stale } }

/-- Two computations that begin alike agree up to a map where their continuations do. -/
theorem bind_eq_map_bind {α β γ : Type} {x : Except Fault α} {f : α → Except Fault γ} {g : α → Except Fault β} {k : β → γ}
    (h : ∀ a, x = .ok a → f a = (g a).map k) : (x >>= f) = (x >>= g).map k := by
  cases x with
  | ok a => exact h a rfl
  | error e => rfl

/-- A read on the reference bus is SIM's own (R61, R62). -/
theorem serve_read_referenceBus (p : Params) (sim : SimState) (a : Addr) (k : Byte → Except Fault SimState) :
    (referenceBus p).serve sim.mem (.read a) k = sim.memRead p a >>= fun d => (k d).map (OnBus.mk sim.mem) := by
  by_cases ha : a.toNat < p.busSize
  · simp only [Bus.serve, referenceBus, SimState.memRead, if_pos ha]; rfl
  · simp only [Bus.serve, referenceBus, SimState.memRead, if_neg ha]; rfl

/-- So is a write. -/
theorem serve_write_referenceBus (p : Params) (sim : SimState) (a : Addr) (v : Byte) :
    (referenceBus p).serve sim.mem (.write a v) (fun _ => .ok sim) =
      (sim.memWrite p a v).map (SimState.onReference sim.mem) := by
  by_cases ha : a.toNat < p.busSize
  · simp only [Bus.serve, referenceBus, SimState.memWrite, if_pos ha]; rfl
  · simp only [Bus.serve, referenceBus, SimState.memWrite, if_neg ha]; rfl

/-- The byte a read answers changes no memory when it is driven onto the pins. -/
theorem takesByte_read_onReference (p : Params) (mid : SimState) (a : Addr) (d : Byte) :
    (mid.takesByte p (.read a) d).map (OnBus.mk mid.mem) =
      (mid.writeBits p "db" 8 d.toNat).map (SimState.onReference mid.mem) := by
  simp only [SimState.takesByte]
  cases hw : mid.writeBits p "db" 8 d.toNat with
  | error f => rfl
  | ok sim' => simp only [Except.map, SimState.onReference, ← writeBits_mem hw]

/-- The bus access of a half-clock, on the reference bus: what SIM asks once `clk0` has settled, and what it does then. -/
def SimState.sync (p : Params) (mid : SimState) (rose : Bool) : Except Fault (OnBus Memory SimState) :=
  mid.syncRequest rose >>= fun req => (referenceBus p).serve mid.mem req (mid.takesByte p req)

/-- After a fall of `clk0` it is `BusReadSync()` (R151). -/
theorem sync_fall (p : Params) (mid : SimState) :
    mid.sync p false = (mid.busReadSync p).map (SimState.onReference mid.mem) := by
  rw [SimState.sync, SimState.syncRequest, bind_assoc]
  refine bind_eq_map_bind fun rw _ => ?_
  cases rw with
  | false => rfl
  | true =>
    refine (bind_assoc mid.readAddressBus _ _).trans (bind_eq_map_bind fun a _ => ?_)
    exact (serve_read_referenceBus p mid a _).trans (bind_eq_map_bind fun d _ => takesByte_read_onReference p mid a d)

/-- After a rise of `clk0` it is `BusWriteSync()` (R151). -/
theorem sync_rise (p : Params) (mid : SimState) :
    mid.sync p true = (mid.busWriteSync p).map (SimState.onReference mid.mem) := by
  rw [SimState.sync, SimState.syncRequest, bind_assoc]
  refine bind_eq_map_bind fun rw _ => ?_
  cases rw with
  | true => rfl
  | false =>
    refine (bind_assoc mid.readAddressBus _ _).trans (bind_eq_map_bind fun a _ => ?_)
    refine (bind_assoc mid.readDataBus _ _).trans (bind_eq_map_bind fun d _ => ?_)
    exact serve_write_referenceBus p mid a d

/-- On the reference bus `halfClockOn` is the `HalfClock()` that a step runs, fault for fault. -/
theorem halfClockOn_referenceBus (p : Params) (sim : SimState) :
    halfClockOn (referenceBus p) p { env := sim.mem, engine := sim } =
      (sim.halfClock p).map (SimState.onReference sim.mem) := by
  refine bind_eq_map_bind fun c _ => ?_
  cases c with
  | true => exact bind_eq_map_bind fun mid hw => writeBit_mem hw ▸ sync_fall p mid
  | false => exact bind_eq_map_bind fun mid hw => writeBit_mem hw ▸ sync_rise p mid

/-- Settles O60: a `Clock()` runs one operation or fetches an opcode, and a half-clock asks at most once; on the reference
bus each request is the access the engine itself makes. -/
theorem anyBus : Obligations.AnyBus :=
  ⟨fun mode _ h => clockOn_serves mode h, halfClockOn_serves,
    fun p st sim => ⟨clockOn_referenceBus p st, halfClockOn_referenceBus p sim⟩⟩

end Sys2Proof.Machine


/-! PROOFS. The boot of SIM (70_reset_and_hazards.md R440 to R442; 40_switch_network.md R150; 92_eei_decisions.md D24). -/

namespace Sys2Proof.Machine

/-! ### `Init()` -/

theorem lookup_setNode (sim : SimState) (n : Nat) (l : Level) (name : String) :
    (sim.setNode n l).lookup name = sim.lookup name := (setNode_circuit sim n l).1.lookup name

/-- A drive survives a write of another node. -/
theorem SimState.Drives.setNode_ne {sim : SimState} {n k : Nat} {l l' : Level} (h : sim.Drives n l) (hne : n ≠ k) :
    (sim.setNode k l').Drives n l := by
  unfold SimState.Drives at h ⊢
  rwa [setNode_other sim l' hne]

/-- A drive survives a write of another pin. -/
theorem SimState.Drives.writeBit_ne {p : Params} {sim sim' : SimState} {name : String} {n k : Nat} {l l' : Level}
    (h : sim.Drives n l) (hk : sim.lookup name = .ok k) (hne : n ≠ k) (hw : sim.writeBit p name l' = .ok sim') :
    sim'.Drives n l := by
  obtain ⟨-, -, -, hother⟩ := writeBit_drive hk hw
  obtain ⟨hu, hd, hf⟩ := hother n hne
  obtain ⟨h1, h2, h3⟩ := h
  exact ⟨hu.trans h1, hd.trans h2, hf.trans h3⟩

/-- Forcing pins keeps the drive of a node that none of them names. -/
theorem forcePins_keeps {sim sim' : SimState} {n : Nat} {l : Level} (pins : List (String × Level))
    (hne : ∀ c ∈ pins, sim.lookup c.1 ≠ .ok n) (h : sim.forcePins pins = .ok sim') (hd : sim.Drives n l) :
    sim'.Drives n l := by
  induction pins generalizing sim with
  | nil => cases h; exact hd
  | cons c pins ih =>
    obtain ⟨k, hk, h⟩ := bind_ok h
    have hnk : n ≠ k := fun e => hne c List.mem_cons_self (e ▸ hk)
    exact ih (fun c' hc' => by rw [lookup_setNode]; exact hne c' (List.mem_cons_of_mem _ hc')) h (hd.setNode_ne hnk)

/-- Forcing pins of different names leaves each at its level (R441). -/
theorem forcePins_drives {sim sim' : SimState} (pins : List (String × Level)) (hnd : (pins.map (·.1)).Nodup)
    (h : sim.forcePins pins = .ok sim') : ∀ c ∈ pins, ∀ n, sim.lookup c.1 = .ok n → sim'.Drives n c.2 := by
  induction pins generalizing sim with
  | nil => nofun
  | cons c pins ih =>
    obtain ⟨k, hk, h⟩ := bind_ok h
    obtain ⟨hc, hnd⟩ := List.nodup_cons.mp hnd
    intro c' hc' n hn
    obtain rfl | hc' := List.mem_cons.mp hc'
    · cases hk.symm.trans hn
      refine forcePins_keeps pins (fun c hmem e => ?_) h (setNode_drives sim c'.2 (lookup_node hn).1)
      rw [lookup_setNode] at e
      exact lookup_ne hn e (fun e => hc (List.mem_map.mpr ⟨c, hmem, e.symm⟩)) rfl
    · exact ih hnd h c' hc' n (by rwa [lookup_setNode])

/-- The six pins of `Init()`, found and forced in order (R441). -/
theorem forcePins_initPins {sim forced : SimState} (h : sim.forcePins initPins = .ok forced) :
    ∃ res clk rdy so irq nmi, sim.lookup "res" = .ok res ∧ sim.lookup "clk0" = .ok clk ∧ sim.lookup "rdy" = .ok rdy ∧
      sim.lookup "so" = .ok so ∧ sim.lookup "irq" = .ok irq ∧ sim.lookup "nmi" = .ok nmi ∧
      forced = (((((sim.setNode res .low).setNode clk .low).setNode rdy .high).setNode so .low).setNode irq .high).setNode
        nmi .high := by
  obtain ⟨res, hres, h⟩ := bind_ok h
  obtain ⟨clk, hclk, h⟩ := bind_ok h
  obtain ⟨rdy, hrdy, h⟩ := bind_ok h
  obtain ⟨so, hso, h⟩ := bind_ok h
  obtain ⟨irq, hirq, h⟩ := bind_ok h
  obtain ⟨nmi, hnmi, h⟩ := bind_ok h
  cases h
  simp only [lookup_setNode] at hclk hrdy hso hirq hnmi
  exact ⟨res, clk, rdy, so, irq, nmi, hres, hclk, hrdy, hso, hirq, hnmi, rfl⟩

/-- Clock pulses leave memory, the drive of every node but `clk0`, and `clk0` low where it was (R441). -/
theorem pulses_drive {p : Params} {sim sim' : SimState} {clk : Nat} (hclk : sim.lookup "clk0" = .ok clk) (k : Nat)
    (h : SimState.pulses p k sim = .ok sim') :
    sim'.mem = sim.mem ∧ ∀ n l, (n = clk → l = .low) → sim.Drives n l → sim'.Drives n l := by
  induction k generalizing sim with
  | zero => cases h; exact ⟨rfl, fun _ _ _ => id⟩
  | succ k ih =>
    obtain ⟨up, h1, h⟩ := bind_ok h
    obtain ⟨down, h2, h⟩ := bind_ok h
    have hup : up.lookup "clk0" = .ok clk := ((writeBit_held h1).circuit.lookup _).trans hclk
    have hdown : down.lookup "clk0" = .ok clk := ((writeBit_held h2).circuit.lookup _).trans hup
    obtain ⟨hm, hdrive⟩ := ih hdown h
    refine ⟨hm.trans ((writeBit_mem h2).trans (writeBit_mem h1)), fun n l hl hd => hdrive n l hl ?_⟩
    by_cases hn : n = clk
    · obtain ⟨hlow, -⟩ := writeBit_drive hup h2
      rwa [hn, hl hn]
    · exact (hd.writeBit_ne hclk hn h1).writeBit_ne hup hn h2

/-- `Init()` in its order: the pins, a settle of every node, eight pulses, `res` released (R441). -/
theorem init_phases {p : Params} {sim sim' : SimState} (h : sim.init p = .ok sim') :
    ∃ forced settled pulsed, sim.forcePins initPins = .ok forced ∧
      forced.settle p (List.range sim.nodes.length) = .ok settled ∧ SimState.pulses p 8 settled = .ok pulsed ∧
      pulsed.writeBit p "res" .high = .ok sim' := by
  obtain ⟨forced, h1, h⟩ := bind_ok h
  obtain ⟨settled, h2, h⟩ := bind_ok h
  obtain ⟨pulsed, h3, h4⟩ := bind_ok h
  obtain ⟨-, -, -, hlen, -⟩ := (forcePins_held _ h1).circuit
  exact ⟨forced, settled, pulsed, h1, hlen ▸ h2, h3, h4⟩

/-- What `Init()` leaves: memory as it was, `res` driven high, the other five pins driven as they were forced (R441). -/
theorem init_leaves {p : Params} {sim sim' : SimState} (h : sim.init p = .ok sim') :
    sim'.mem = sim.mem ∧ (∀ res, sim.lookup "res" = .ok res → sim'.Drives res .high) ∧
      ∀ c ∈ initPins, c.1 ≠ "res" → ∀ n, sim.lookup c.1 = .ok n → sim'.Drives n c.2 := by
  obtain ⟨forced, settled, pulsed, h1, h2, h3, h4⟩ := init_phases h
  obtain ⟨res, clk, _, _, _, _, hres, hclk, -, -, -, -, hforced⟩ := forcePins_initPins h1
  have hsettled : SameCircuit sim settled := (forcePins_held _ h1).circuit.trans (settle_held h2).circuit
  have hpulsed : SameCircuit sim pulsed := hsettled.trans (pulses_held 8 h3).circuit
  obtain ⟨hmem, hdrive⟩ := pulses_drive ((hsettled.lookup _).trans hclk) 8 h3
  refine ⟨?_, fun res' hres' => (writeBit_drive ((hpulsed.lookup _).trans hres') h4).1, fun c hc hne n hn => ?_⟩
  · calc sim'.mem = pulsed.mem := writeBit_mem h4
      _ = settled.mem := hmem
      _ = forced.mem := (settle_kept h2).1.mem
      _ = sim.mem := by rw [hforced]; rfl
  · have hlow : n = clk → c.2 = .low := fun e => by
      have hclk0 : c.1 = "clk0" := by_contra fun hname => lookup_ne hn hclk hname e
      have key : ∀ c ∈ initPins, c.1 = "clk0" → c.2 = .low := by decide
      exact key c hc hclk0
    have hd : settled.Drives n c.2 :=
      (settle_kept h2).1.drive.drives (forcePins_drives initPins (by decide) h1 c hc n hn)
    exact (hdrive n c.2 hlow hd).writeBit_ne ((hpulsed.lookup _).trans hres) (lookup_ne hn hres hne) h4

/-! ### `RunStartProgram()` -/

theorem halfClocks_succ {p : Params} (k : Nat) (sim : SimState) :
    SimState.halfClocks p (k + 1) sim = (SimState.halfClocks p k sim >>= SimState.halfClock p) := by
  rw [halfClocks_append]
  congr 1
  funext m
  exact bind_pure (m.halfClock p)

theorem runStartProgram_eq_halfClocks (p : Params) (sim : SimState) :
    sim.runStartProgram p = SimState.halfClocks p 19 sim := (halfClocks_succ 18 sim).symm

/-- Bus synchronisation after a fall leaves the drive of `clk0` (R151). -/
theorem busReadSync_clk0 {p : Params} {sim sim' : SimState} {n : Nat} {l : Level} (hn : sim.lookup "clk0" = .ok n)
    (h : sim.busReadSync p = .ok sim') (hd : sim.Drives n l) : sim'.Drives n l := by
  obtain ⟨rw, -, h⟩ := bind_ok h
  cases rw with
  | false => cases h; exact hd
  | true =>
    obtain ⟨a, -, h⟩ := bind_ok h
    obtain ⟨d, -, h⟩ := bind_ok h
    obtain ⟨-, hup, hdown, hfloat⟩ := writeBits_other h hn (by decide)
    obtain ⟨h1, h2, h3⟩ := hd
    exact ⟨hup.trans h1, hdown.trans h2, hfloat.trans h3⟩

/-- Bus synchronisation after a rise writes memory at most (R151). -/
theorem busWriteSync_mem_only {p : Params} {sim sim' : SimState} (h : sim.busWriteSync p = .ok sim') :
    ∃ m, sim' = { sim with mem := m } := by
  obtain ⟨rw, -, h⟩ := bind_ok h
  cases rw with
  | true => cases h; exact ⟨_, rfl⟩
  | false =>
    obtain ⟨a, -, h⟩ := bind_ok h
    obtain ⟨d, -, h⟩ := bind_ok h
    unfold SimState.memWrite at h
    split at h <;> cases h
    exact ⟨_, rfl⟩

/-- A half-clock drives `clk0` to the level it was not at (R150). -/
theorem halfClock_toggles {p : Params} {sim sim' : SimState} {n : Nat} (hn : sim.lookup "clk0" = .ok n)
    (h : sim.halfClock p = .ok sim') : sim'.Drives n (levelOf (!(sim.node n).state)) := by
  obtain ⟨c, hc, h⟩ := bind_ok h
  obtain ⟨n', hn', hc⟩ := bind_ok hc
  cases hn.symm.trans hn'
  obtain rfl : (sim.node n).state = c := by cases hc; rfl
  cases hs : (sim.node n).state with
  | true =>
    rw [hs] at h
    obtain ⟨mid, h1, h2⟩ := bind_ok h
    exact busReadSync_clk0 (((writeBit_held h1).circuit.lookup _).trans hn) h2 (writeBit_drive hn h1).1
  | false =>
    rw [hs] at h
    obtain ⟨mid, h1, h2⟩ := bind_ok h
    obtain ⟨m, rfl⟩ := busWriteSync_mem_only h2
    exact (writeBit_drive hn h1).1

/-- Where `clk0` begins low and follows its drive, it is high after an odd number of half-clocks. -/
theorem halfClocks_state {p : Params} {sim : SimState} {n : Nat} (hn : sim.lookup "clk0" = .ok n)
    (h0 : (sim.node n).state = false) {K : Nat}
    (hf : ∀ k m, 1 ≤ k → k ≤ K → SimState.halfClocks p k sim = .ok m → (m.node n).state = (m.node n).pullUp) :
    ∀ k m, k ≤ K → SimState.halfClocks p k sim = .ok m → (m.node n).state = k.bodd := by
  intro k
  induction k with
  | zero => intro m _ h; cases h; exact h0
  | succ k ih =>
    intro m hk h
    obtain ⟨mid, h1, h2⟩ := bind_ok ((halfClocks_succ k sim).symm.trans h)
    have hd := halfClock_toggles (((halfClocks_held k h1).circuit.lookup _).trans hn) h2
    rw [hf (k + 1) m (by omega) hk h, hd.1, ih mid (by omega) h1, Nat.bodd_succ]
    cases k.bodd <;> rfl

/-- `RunStartProgram()` leaves `clk0` high where it began low and followed its drive (R442). -/
theorem runStartProgram_clk0 {p : Params} {sim sim' : SimState} {n : Nat} (h : sim.runStartProgram p = .ok sim')
    (hn : sim.lookup "clk0" = .ok n) (h0 : (sim.node n).state = false)
    (hf : ∀ k m, 1 ≤ k → k ≤ 19 → SimState.halfClocks p k sim = .ok m → (m.node n).state = (m.node n).pullUp) :
    (sim'.node n).state = true ∧ sim'.Drives n .high := by
  obtain ⟨mid, h1, h2⟩ := bind_ok h
  have hlow : (mid.node n).state = false := halfClocks_state hn h0 hf 18 mid (by omega) h1
  have hd := halfClock_toggles (((halfClocks_held 18 h1).circuit.lookup _).trans hn) h2
  rw [hlow] at hd
  exact ⟨halfClocks_state hn h0 hf 19 sim' (by omega) ((runStartProgram_eq_halfClocks p sim).symm.trans h), hd⟩

/-! ### Which calls step SIM -/

/-- What a call of the host leaves of SIM's lifecycle (D24, log entry 15); `moves` says that it steps SIM. -/
structure Lifecycle (moves : Bool) (a b : SimState) : Prop where
  later : a.phase ≠ .fresh → b.phase = a.phase
  fresh : a.phase = .fresh → (∃ m, b = { a with mem := m }) ∨ b.phase = .stepped
  moved : a.phase = .fresh → Undriven a → moves = true → b.phase = .stepped

/-- A call that writes memory at most leaves a SIM as fresh as it was. -/
theorem Lifecycle.withMem (a : SimState) (m : Memory) : Lifecycle false a { a with mem := m } :=
  ⟨fun _ => rfl, fun _ => .inl ⟨m, rfl⟩, nofun⟩

theorem Lifecycle.refl (a : SimState) : Lifecycle false a a := .withMem a a.mem

/-- A SIM with a driven pin is no SIM that has none. -/
theorem Undriven.ne_of_driven {a b : SimState} (hu : Undriven a) {i : Nat} (h : (b.node i).floating = false) : b ≠ a := by
  rintro rfl
  rw [hu i] at h
  cases h

theorem noteStep_lifecycle {moves : Bool} {before after : SimState} (hp : after.phase = before.phase)
    (hm : Undriven before → moves = true → after ≠ before) : Lifecycle moves before (before.noteStep after) := by
  obtain ⟨hlater, hfresh⟩ := noteStep_phase before after hp
  refine ⟨hlater, fun hb => ?_, fun hb hu hmv => ?_⟩
  · obtain ⟨he, -⟩ | ⟨hs, -⟩ := hfresh hb
    · exact .inl ⟨before.mem, he⟩
    · exact .inr hs
  · obtain ⟨-, he⟩ | ⟨hs, -⟩ := hfresh hb
    · exact absurd he (hm hu hmv)
    · exact hs

/-- A call that steps SIM: its computation keeps the phase, and changes an undriven SIM where the call moves it. -/
theorem stepSim_lifecycle {moves : Bool} {s t : State} {r : Except Fault SimState} (h : s.stepSim r = .next t)
    (hd : ∀ sim, r = .ok sim → StaysDriven s.sim sim)
    (hm : ∀ sim, r = .ok sim → Undriven s.sim → moves = true → sim ≠ s.sim) : Lifecycle moves s.sim t.sim := by
  obtain ⟨sim, hr, rfl⟩ := stepSim_next h
  exact noteStep_lifecycle (hd sim hr).phase (hm sim hr)

/-- One half-clock or more change an undriven SIM (R21, R150). -/
theorem halfClocks_moved {p : Params} {k : Nat} (hk : k ≠ 0) {sim sim' : SimState}
    (h : SimState.halfClocks p k sim = .ok sim') (hu : Undriven sim) : sim' ≠ sim := by
  obtain ⟨k, rfl⟩ := Nat.exists_eq_succ_of_ne_zero hk
  obtain ⟨sim1, h1, h⟩ := bind_ok h
  obtain ⟨l, mid, hw, hd⟩ := halfClock_staysDriven h1
  exact writeBit_moved hw (hd.trans (halfClocks_staysDriven k h)) hu

theorem halfClock_eq_halfClocks (p : Params) (sim : SimState) : sim.halfClock p = SimState.halfClocks p 1 sim :=
  (bind_pure (sim.halfClock p)).symm

/-- A multi-bit write of one pin or more changes an undriven SIM (R21, R144). -/
theorem writeBits_moved {p : Params} {base : String} {n v : Nat} (hn : n ≠ 0) {sim sim' : SimState}
    (h : sim.writeBits p base n v = .ok sim') (hu : Undriven sim) : sim' ≠ sim := by
  obtain ⟨k, rfl⟩ := Nat.exists_eq_succ_of_ne_zero hn
  obtain ⟨ns, hl, h⟩ := bind_ok h
  rw [bitNames, List.range_succ_eq_map, List.map_cons] at hl
  obtain ⟨i, hi, hl⟩ := bind_ok hl
  obtain ⟨rest, -, hl⟩ := bind_ok hl
  cases hl
  have hdriven := setNode_drives sim (levelOf (v.testBit 0)) (lookup_node hi).1
  exact hu.ne_of_driven ((settle_staysDriven h).driven i ((setNodes_staysDriven (v / 2) rest _).driven i hdriven.2.2))

theorem runStartProgram_phase {p : Params} {sim sim' : SimState} (h : sim.runStartProgram p = .ok sim') :
    sim'.phase = sim.phase :=
  (halfClocks_staysDriven 19 ((runStartProgram_eq_halfClocks p sim).symm.trans h)).phase

/-- A call on SEQ steps no SIM. -/
theorem movesSim_of_onSeq {c : HostCmd} (h : c.onSim = false) : c.movesSim = false := by
  cases c <;> first | rfl | cases h

/-- What every call but `Setup` and `Init()` leaves of SIM's lifecycle (R2, D24). -/
theorem runCmd_lifecycle {c : HostCmd} {s t : State} (h : runCmd c s = .next t) (hs : ∀ net, c ≠ .simSetup net)
    (hi : c ≠ .simInit) : Lifecycle c.movesSim s.sim t.sim := by
  obtain ⟨hc, -⟩ | ⟨hc, st, rfl⟩ := runCmd_replaces h
  swap
  · rw [movesSim_of_onSeq hc]; exact .refl _
  cases c <;> first | exact Bool.noConfusion hc | simp only [runCmd] at h
  case simSetup net => exact absurd rfl (hs net)
  case simInit => exact absurd rfl hi
  case simRunStartProgram =>
    unfold State.simRunStartProgram at h
    split at h
    · rename_i hb
      obtain ⟨sim, hr, rfl⟩ := ofSim_next h
      exact ⟨fun _ => runStartProgram_phase hr, fun hf => by simp [hf] at hb, nofun⟩
    all_goals cases h
  case simHalfClock =>
    rw [halfClock_eq_halfClocks] at h
    exact stepSim_lifecycle h (fun _ => halfClocks_staysDriven 1) fun _ hr hu _ => halfClocks_moved (by decide) hr hu
  case simClock =>
    exact stepSim_lifecycle h (fun _ => halfClocks_staysDriven 2) fun _ hr hu _ => halfClocks_moved (by decide) hr hu
  case simExecuteCycles n =>
    exact stepSim_lifecycle h (fun _ => halfClocks_staysDriven (2 * n)) fun _ hr hu hm =>
      halfClocks_moved (by simpa [HostCmd.movesSim] using hm) hr hu
  case simWriteBit name l =>
    unfold State.simWriteBit at h
    split at h
    · cases h
    · exact stepSim_lifecycle h (fun _ => writeBit_staysDriven) fun _ hr hu _ => writeBit_moved hr (.refl _) hu
  case simWriteBits base n v =>
    unfold State.simWriteBits at h
    split at h
    · cases h
    · exact stepSim_lifecycle h (fun _ => writeBits_staysDriven) fun _ hr hu hm =>
        writeBits_moved (by simpa [HostCmd.movesSim] using hm) hr hu
  case simSettle seeds =>
    unfold State.simSettle at h
    split at h
    · exact stepSim_lifecycle h (fun _ => settle_staysDriven) fun _ _ _ hm => by cases hm
    · cases h
  case simReadBit name => rw [readSim_next h]; exact .refl _
  case simReadBits base n => rw [readSim_next h]; exact .refl _
  case simPoke a v =>
    obtain ⟨sim, hw, rfl⟩ := ofSim_next h
    unfold SimState.memWrite at hw
    split at hw <;> cases hw
    exact .withMem s.sim _

/-- `Setup` leaves a fresh SIM no pin of which is driven (R21, R440). -/
theorem Built.fresh_undriven {net : Net} {m : Memory} {rows : List TransistorRow} {sim : SimState}
    (h : Built net m rows sim) : sim.phase = .fresh ∧ Undriven sim := by
  refine ⟨h.phase, fun i => ?_⟩
  by_cases hi : i < net.nodeCount
  · rw [h.node i hi]; rfl
  · rw [SimState.node, List.getD_eq_getElem?_getD, List.getElem?_eq_none (by rw [h.length]; omega)]
    rfl

/-! ### The calls themselves -/

/-- `Init()` as a call: refused on a SIM that has been stepped, else the boot (R441, D24). -/
theorem step_simInit {s : State} {rest : List HostCmd} (hh : s.host = .simInit :: rest) :
    (s.sim.phase ≠ .fresh → step s = .refused .simInitOutsideContract) ∧
      (s.sim.phase = .fresh → ∀ sim', s.sim.init s.params = .ok sim' →
        step s = .next ((s.setHost rest).setSim { sim' with phase := .booted })) := by
  rw [step_eq_runCmd hh]
  refine ⟨fun hp => ?_, fun hp sim' h => ?_⟩
  · cases hb : s.sim.phase with
    | fresh => exact absurd hb hp
    | stepped => simp only [runCmd, State.simInit, State.setHost_sim, hb]
    | booted => simp only [runCmd, State.simInit, State.setHost_sim, hb]
  · simp only [runCmd, State.simInit, State.setHost_sim, State.setHost_params, hp, h]; rfl

/-- `RunStartProgram()` as a call: refused before `Init()` (R442, D24). -/
theorem step_simRunStartProgram {s : State} {rest : List HostCmd} (hh : s.host = .simRunStartProgram :: rest) :
    (s.sim.phase ≠ .booted → step s = .refused .simStartBeforeInit) ∧
      (s.sim.phase = .booted → ∀ sim', s.sim.runStartProgram s.params = .ok sim' →
        step s = .next ((s.setHost rest).setSim sim') ∧ sim'.phase = .booted) := by
  rw [step_eq_runCmd hh]
  refine ⟨fun hp => ?_, fun hp sim' h => ⟨?_, (runStartProgram_phase h).trans hp⟩⟩
  · cases hb : s.sim.phase with
    | fresh => simp only [runCmd, State.simRunStartProgram, State.setHost_sim, hb]
    | stepped => simp only [runCmd, State.simRunStartProgram, State.setHost_sim, hb]
    | booted => exact absurd hb hp
  · simp only [runCmd, State.simRunStartProgram, State.setHost_sim, State.setHost_params, hp, h]; rfl

/-- Settles O59: the boot step by step, the nineteen half-clocks, the two calls' preconditions, and the lifecycle of every
other call. -/
theorem bootOfSim : Obligations.BootOfSim := by
  refine ⟨fun p sim sim' h => ?_, fun p sim => ⟨?_, fun sim' n h hn h0 hf => ?_⟩,
    fun s rest => ⟨step_simInit, step_simRunStartProgram⟩, fun s t c rest hh h => ?_⟩
  · obtain ⟨forced, settled, pulsed, h1, h2, h3, h4⟩ := init_phases h
    obtain ⟨hmem, hhigh, hpins⟩ := init_leaves h
    obtain ⟨res, clk, rdy, so, irq, nmi, hres, hclk, hrdy, hso, hirq, hnmi, rfl⟩ := forcePins_initPins h1
    refine ⟨res, clk, rdy, so, irq, nmi, hres, hclk, hrdy, hso, hirq, hnmi,
      ⟨settled, pulsed, h2, (pulses_foldlM 8 settled).symm.trans h3, h4⟩, hmem, ?_⟩
    simp only [List.forall_mem_cons, List.not_mem_nil, false_imp_iff, implies_true, and_true]
    exact ⟨hhigh res hres, hpins ("clk0", .low) (by decide) (by decide) clk hclk,
      hpins ("rdy", .high) (by decide) (by decide) rdy hrdy, hpins ("so", .low) (by decide) (by decide) so hso,
      hpins ("irq", .high) (by decide) (by decide) irq hirq, hpins ("nmi", .high) (by decide) (by decide) nmi hnmi⟩
  · exact (runStartProgram_eq_halfClocks p sim).trans (halfClocks_foldlM (List.range 19) sim)
  · obtain ⟨hs, hup, hdown, -⟩ := runStartProgram_clk0 h hn h0 hf
    exact ⟨hs, hup, hdown⟩
  · rw [step_eq_runCmd hh] at h
    refine ⟨?_, fun hs hi => ?_⟩
    · rintro ⟨net, rfl⟩
      obtain ⟨sim, hset, rfl⟩ := runCmd_setup h
      exact (setup_built hset).2.fresh_undriven
    · obtain ⟨hlater, hfresh, hmoved⟩ := runCmd_lifecycle h hs hi
      exact ⟨hlater, fun hp => ⟨hfresh hp, hmoved hp⟩⟩

end Sys2Proof.Machine

/-! PROOFS. The state of both engines: the status byte, what `PowerOn()` and `Setup` leave, and what every step keeps
(10_state.md; 40_switch_network.md R120 to R123). -/

namespace Sys2Proof.Machine

/-! ### What a step keeps of each engine -/

/-- SEQ's invariants pass from one state to the other: the queue's shape (R36), the canonical memory (R61), bits 4 and 5 of
`P` (R33). -/
structure SeqHeld (a b : SeqState) : Prop where
  queue : QueueShape a.q → QueueShape b.q
  memory : a.mem.wf = true → b.mem.wf = true
  bits45 : b.p &&& 0x30#8 = a.p &&& 0x30#8

theorem SeqHeld.refl (a : SeqState) : SeqHeld a a := ⟨id, id, rfl⟩

/-- Every step holds SEQ's invariants: a run of SEQ, a call on SEQ, or a call that does not reach it. -/
theorem step_seqHeld {s t : State} (h : step s = .next t) : SeqHeld s.seq t.seq := by
  cases hh : s.host with
  | nil =>
    obtain ⟨-, -, -, hend, hmem, hp⟩ := stepSeq_frame hh h
    exact ⟨fun hq => .of_end (hend hq.ready.free), hmem, hp⟩
  | cons c rest =>
    rw [step_eq_runCmd hh] at h
    obtain ⟨-, sim, rfl⟩ | ⟨hc, -⟩ := runCmd_replaces h
    · exact .refl s.seq
    · obtain ⟨-, hq, hmem, hp⟩ := runCmd_seq h hc
      exact ⟨hq, hmem, hp⟩

/-- Every step holds SIM's invariants and its circuit, or is a `Setup`, which builds a new SIM on the same bus (R120). -/
theorem step_simHeld_or_setup {s t : State} (h : step s = .next t) :
    SimHeld s.sim t.sim ∨ ∃ net rest, s.host = .simSetup net :: rest ∧ setup net s.sim.mem = some t.sim := by
  cases hh : s.host with
  | nil =>
    obtain ⟨hsim, -⟩ := stepSeq_frame hh h
    exact .inl (hsim ▸ .refl s.sim)
  | cons c rest =>
    rw [step_eq_runCmd hh] at h
    obtain ⟨hc, -⟩ | ⟨-, st, rfl⟩ := runCmd_replaces h
    · by_cases hs : ∃ net, c = .simSetup net
      · obtain ⟨net, rfl⟩ := hs
        obtain ⟨sim, hset, rfl⟩ := runCmd_setup h
        exact .inr ⟨net, rest, rfl, hset⟩
      · exact .inl (runCmd_sim h hc (not_exists.mp hs)).2
    · exact .inl (.refl s.sim)

/-- What `Setup` builds holds together, whatever was there before (R25, R123). -/
theorem setup_conductive {net : Net} {m : Memory} {sim : SimState} (h : setup net m = some sim) : Conductive sim :=
  (setup_built h).2.conductive (setup_built h).1

/-- Settles O18: a step by SEQ's invariants, a `Clock()` by its frame. -/
theorem queueShapeKept : Obligations.QueueShapeKept :=
  ⟨fun _ _ hq h => (step_seqHeld h).queue hq, fun _ _ _ hq h => ((clock_frame h).1 hq).2⟩

/-- Settles O51: a step holds the network together, and a `Setup` builds one that does. -/
theorem conductiveKept : Obligations.ConductiveKept := by
  intro s t hs h
  obtain hheld | ⟨net, rest, -, hset⟩ := step_simHeld_or_setup h
  · exact hheld.conductive hs
  · exact setup_conductive hset

/-- Settles O53: `Setup` is the one step that does not hold the circuit. -/
theorem circuitFixed : Obligations.CircuitFixed := by
  intro s t h hns
  obtain hheld | ⟨net, rest, hhost, -⟩ := step_simHeld_or_setup h
  · exact hheld.circuit
  · exact absurd hhost (hns net rest)

/-! ### The status byte -/

theorem getFlag_and (p m : Byte) (f : Flag) : getFlag (p &&& m) f = (getFlag p f && getFlag m f) :=
  BitVec.getLsbD_and ..

theorem getFlag_or (p m : Byte) (f : Flag) : getFlag (p ||| m) f = (getFlag p f || getFlag m f) :=
  BitVec.getLsbD_or ..

/-- The mask `0x30` is `B` and `U` (R33). -/
theorem getFlag_of_bits45 {p p' : Byte} (h : p' &&& 0x30#8 = p &&& 0x30#8) {f : Flag} (hf : f = .b ∨ f = .u) :
    getFlag p' f = getFlag p f := by
  have hmask : getFlag 0x30#8 f = true := by rcases hf with rfl | rfl <;> rfl
  simpa [getFlag_and, hmask] using congrArg (getFlag · f) h

/-- `PHP` and `BRK` push `B` and `U` set, the other flags as they are (R33). -/
theorem getFlag_pushedBreak (p : Byte) (f : Flag) :
    getFlag (pushedBreak p) f = if f = .b ∨ f = .u then true else getFlag p f := by
  have hmask : getFlag 0x30 f = decide (f = .b ∨ f = .u) := by cases f <;> rfl
  rw [pushedBreak, getFlag_or, hmask]
  by_cases hf : f = .b ∨ f = .u <;> simp [hf]

/-- IRQ and NMI push `B` clear and `U` set, the other flags as they are (R33, R414). -/
theorem getFlag_pushedIrq (p : Byte) (f : Flag) :
    getFlag (pushedIrq p) f = if f = .b then false else if f = .u then true else getFlag p f := by
  have hset : getFlag 0x20 f = decide (f = .u) := by cases f <;> rfl
  have hkeep : getFlag 0xEF f = decide (f ≠ .b) := by cases f <;> rfl
  rw [pushedIrq, getFlag_and, getFlag_or, hset, hkeep]
  by_cases hb : f = .b
  · simp [hb]
  · by_cases hu : f = .u <;> simp [hb, hu]

/-- `setNZ` as the two flag writes of R32, in its order. -/
theorem setNZ_eq_withFlags_zn (p v : Byte) : setNZ p v = withFlags p [(.z, decide (v = 0)), (.n, v.getLsbD 7)] := by
  rw [setNZ, BitVec.msb_eq_getLsbD_last]
  rfl

/-- Settles O3, from one law for each operation on the status byte. -/
theorem statusByte : Obligations.StatusByte := fun p m v f g b =>
  ⟨rfl, rfl, getFlag_setFlag p f g b, setNZ_eq_withFlags_zn p v, getFlag_pulledStatus p m f, getFlag_pushedBreak p f,
    getFlag_pushedIrq p f⟩

/-- Settles O21: a step keeps `P & 0x30`, which is `B` and `U`. -/
theorem breakUnusedKept : Obligations.BreakUnusedKept := fun _ _ h =>
  ⟨getFlag_of_bits45 (step_seqHeld h).bits45 (.inl rfl), getFlag_of_bits45 (step_seqHeld h).bits45 (.inr rfl)⟩

/-! ### `PowerOn()` and the state after reset -/

/-- Settles O4: the first `PowerOn()` is part of the built state, a later one is a call that always succeeds. -/
theorem powerOnLeaves : Obligations.PowerOnLeaves := by
  refine ⟨fun p v net m m' => ⟨rfl, rfl, rfl, rfl, rfl, rfl, rfl⟩, fun s rest hh => ?_⟩
  rw [step_eq_runCmd hh]
  rfl

/-- Settles O20: the empty memories, the reset sequence, and the circuit that `Setup` builds from the pins alone. -/
theorem resetMeetsInvariants : Obligations.ResetMeetsInvariants := by
  have hset : setup Net.pinsOnly [] = some State.reset.sim := by rfl
  exact ⟨⟨rfl, congrArg Memory.wf (setup_built hset).2.mem⟩, resetSequence_shape, setup_conductive hset⟩

/-! ### `Setup` -/

/-- `Setup` answers exactly for a well-formed description (R123). -/
theorem setup_isSome_iff (net : Net) (m : Memory) : (setup net m).isSome ↔ net.wellFormed = true := by
  simp [setup]

/-- A call of `Setup` on a malformed description is `Fatal(ConfigError)` (R123, R401). -/
theorem step_simSetup_malformed {net : Net} {s : State} {rest : List HostCmd} (hh : s.host = .simSetup net :: rest)
    (hw : net.wellFormed ≠ true) : step s = .fault .configError := by
  have hnone : setup net s.sim.mem = none := if_neg hw
  simp only [step_eq_runCmd hh, runCmd, State.simSetup, State.setHost_sim, hnone]

/-- Settles O49: the listed conditions are the checks of `Net.wellFormed`, on which alone `Setup` depends. -/
theorem setupFaults : Obligations.SetupFaults := by
  intro net s rest ids good
  have hgood : good ↔ net.wellFormed = true := (wellFormed_iff net).symm
  exact ⟨hgood, hgood.trans (setup_isSome_iff net s.sim.mem).symm,
    fun hh hbad => step_simSetup_malformed hh fun hw => hbad (hgood.mpr hw)⟩

/-- With no index listed twice, a node's row is the one row of its index (R20). -/
theorem rowOf_eq_some_iff {net : Net} (h : (net.nodeTable.map (·.index)).Nodup) {i : Nat} {r : NodeRow} :
    net.rowOf i = some r ↔ r ∈ net.nodeTable ∧ r.index = i :=
  ⟨rowOf_mem, fun ⟨hr, hi⟩ => hi ▸ rowOf_eq_some h hr⟩

/-- A node's pull-up is that of its row, if it has one. -/
theorem freshNode_pullUp (net : Net) (i : Nat) :
    (net.freshNode i).pullUp = true ↔ ∃ r, net.rowOf i = some r ∧ r.pullUp = true := by
  simp only [Net.freshNode]
  cases net.rowOf i <;> simp

/-- A node's name is that of its row, if it has one. -/
theorem freshNode_name (net : Net) (i : Nat) (name : String) :
    (net.freshNode i).name = some name ↔ ∃ r, net.rowOf i = some r ∧ r.name = some name := by
  simp only [Net.freshNode]
  cases net.rowOf i <;> simp

/-- The transistor of a row of the table stands at the row's position (R120). -/
theorem Built.trans_row {net : Net} {m : Memory} {rows : List TransistorRow} {sim : SimState} (h : Built net m rows sim)
    {t : Nat} {r : TransistorRow} (hr : rows[t]? = some r) : sim.trans t = net.transistorOf r := by
  rw [SimState.trans, h.transistors, List.getD_eq_getElem?_getD, List.getElem?_map, hr]
  rfl

/-- A transistor's ends are its row's, a rail terminal second (R121). -/
theorem transistorOf_ends (net : Net) (r : TransistorRow) :
    if r.terminal1 = net.gnd ∨ r.terminal1 = net.pwr
      then (net.transistorOf r).t1 = r.terminal2 ∧ (net.transistorOf r).t2 = r.terminal1
      else (net.transistorOf r).t1 = r.terminal1 ∧ (net.transistorOf r).t2 = r.terminal2 := by
  simp only [Net.transistorOf, Net.normalise]
  split <;> exact ⟨rfl, rfl⟩

/-- Settles O50: node by node and row by row from what the rows of the table leave in the arrays. -/
theorem setupBuilds : Obligations.SetupBuilds := by
  intro net m sim hset
  obtain ⟨hw, hb⟩ := setup_built hset
  obtain ⟨-, -, -, -, hindex, -⟩ := (wellFormed_iff net).mp hw
  refine ⟨hb.length, by rw [hb.transistors, List.length_map], hb.gnd, hb.pwr, hb.mem, hb.phase, fun i hi => ?_,
    fun t r hr => ?_⟩
  · rw [hb.node i hi]
    refine ⟨rfl, rfl, rfl, ?_, fun name => ?_, rfl, rfl⟩
    · simpa only [rowOf_eq_some_iff hindex, and_assoc] using freshNode_pullUp net i
    · simpa only [rowOf_eq_some_iff hindex, and_assoc] using freshNode_name net i name
  · rw [hb.trans_row hr]
    exact ⟨rfl, rfl, rfl, transistorOf_ends net r⟩

end Sys2Proof.Machine

/-! PROOFS. Memory and the bus accesses of both engines (20_memory.md R60 to R67; 40_switch_network.md R144,
R150, R151). -/

namespace Sys2Proof.Machine

/-! ### The backing store -/

/-- Settles O19: SEQ's memory by what every step holds of SEQ, SIM's likewise, and a `Setup` keeps the bus it finds. -/
theorem memoryFormKept : Obligations.MemoryFormKept := by
  rintro s t ⟨hseq, hsim⟩ h
  refine ⟨(step_seqHeld h).memory hseq, ?_⟩
  obtain hheld | ⟨net, rest, -, hset⟩ := step_simHeld_or_setup h
  · exact hheld.memory hsim
  · rwa [(setup_built hset).2.mem]

/-- Settles O1, from the three laws of the list: read after write, the form kept, and its uniqueness. -/
theorem readAfterWrite : Obligations.ReadAfterWrite := fun m a b v =>
  ⟨by simp only [Memory.read_write, BitVec.toNat_inj], Memory.wf_write_addr a v, fun _ => Memory.wf_ext⟩

/-- Settles O2: each of the four accesses is the one test of its address against `BUS_SIZE`. -/
theorem busRange : Obligations.BusRange := fun _ _ _ _ _ =>
  ⟨fun h => ⟨if_neg h.not_gt, if_neg h.not_gt, if_neg h.not_gt, if_neg h.not_gt⟩,
    fun h => ⟨if_pos h, if_pos h, if_pos h, if_pos h⟩⟩

/-! ### SEQ's one access each `Clock()` -/

/-- A request that is one is seen on the bus. -/
theorem BusRequest.access_of_ne_idle (st : SeqState) {req : BusRequest} (h : req ≠ .idle) :
    ∃ x, req.access st = some x := by
  cases req with
  | idle => exact absurd rfl h
  | read a => exact ⟨_, rfl⟩
  | write a v => exact ⟨_, rfl⟩

/-- The next `Clock()` has its access: the read at `PC` of an empty queue, or that of the queue's head, which is neither
free nor the opcode cycle (R65, R170). -/
theorem SeqState.busAccess_exists (p : Params) {st : SeqState} (h : QueueShape st.q) :
    ∃ x, st.busAccess p = some x := by
  obtain hq | ⟨op, rest, hq, hf⟩ := st.ready_q
  · simp only [SeqState.busAccess, hq, Option.some.injEq, exists_eq']
  · obtain ⟨-, hopc, -⟩ := h.ready
    simp only [SeqState.busAccess, hq]
    exact BusRequest.access_of_ne_idle _ (op.request_ne_idle p.decimalMode _ hf (hopc op (hq ▸ List.mem_cons_self)))

/-- The trace of one `Clock()` is its access. -/
theorem SeqState.busTrace_one {p : Params} {st st' : SeqState} (h : st.clock p = .ok st') :
    st.busTrace p 1 = (st.busAccess p).toList := by
  simp only [SeqState.busTrace, h, List.append_nil]

/-- Settles O17: the access exists, and the trace is made of it. -/
theorem oneAccessPerCycle : Obligations.OneAccessPerCycle := by
  intro p st st' hq hc
  obtain ⟨x, hx⟩ := SeqState.busAccess_exists p hq
  exact ⟨x, hx, by rw [SeqState.busTrace_one hc, hx, Option.toList_some]⟩

/-! ### What a multi-bit write drives -/

theorem SameCircuit.lookups {a b : SimState} (h : SameCircuit a b) (names : List String) :
    b.lookups names = a.lookups names := by
  induction names with
  | nil => rfl
  | cons name names ih => simp only [SimState.lookups, h.lookup, ih]

/-- The drive of a bit (R144): its own level, and driven. -/
theorem SimState.drives_levelOf {sim : SimState} {n : Nat} {b : Bool} :
    sim.Drives n (levelOf b) ↔
      (sim.node n).pullUp = b ∧ (sim.node n).pullDown = !b ∧ (sim.node n).floating = false := by
  cases b <;> exact Iff.rfl

/-- Forcing the nodes of distinct names to a value leaves the `k`-th at the value's bit `k` (R144). -/
theorem setNodes_drives (names : List String) (hnd : names.Nodup) {sim : SimState} {ns : List Nat} (v k : Nat)
    {name : String} (h : sim.lookups names = .ok ns) (hk : names[k]? = some name) :
    ∃ m, sim.lookup name = .ok m ∧ (sim.setNodes v ns).Drives m (levelOf (v.testBit k)) := by
  induction names generalizing sim ns v k with
  | nil => cases hk
  | cons first names ih =>
    obtain ⟨n, hn, h⟩ := bind_ok h
    obtain ⟨ns, hns, h⟩ := bind_ok h
    cases h
    obtain ⟨hfirst, hnd⟩ := List.nodup_cons.mp hnd
    cases k with
    | zero =>
      cases hk
      refine ⟨n, hn, ?_⟩
      have hother : n ∉ ns := fun hmem => by
        obtain ⟨name', hname', hl⟩ := lookups_names names hns n hmem
        exact lookup_ne hn hl (fun e => hfirst (e ▸ hname')) rfl
      unfold SimState.Drives SimState.setNodes
      rw [(setNodes_other (v / 2) ns _ hother).1]
      exact setNode_drives sim _ (lookup_node hn).1
    | succ k =>
      have hcircuit := (setNode_circuit sim n (levelOf (v.testBit 0))).1
      obtain ⟨m, hm, hd⟩ := ih hnd (v / 2) k ((hcircuit.lookups names).trans hns) hk
      refine ⟨m, (hcircuit.lookup name).symm.trans hm, ?_⟩
      rwa [Nat.testBit_succ]

/-- `WriteBits` leaves each of its pins driven to its bit (R144). -/
theorem writeBits_drives {p : Params} {sim sim' : SimState} {base : String} {n v : Nat} (hnd : (bitNames base n).Nodup)
    (h : sim.writeBits p base n v = .ok sim') {k : Nat} (hk : k < n) :
    ∃ m, sim.lookup (base ++ toString k) = .ok m ∧ sim'.Drives m (levelOf (v.testBit k)) := by
  obtain ⟨ns, hns, h⟩ := bind_ok h
  have hname : (bitNames base n)[k]? = some (base ++ toString k) := by simp [bitNames, hk]
  obtain ⟨m, hm, hd⟩ := setNodes_drives (bitNames base n) hnd v k hns hname
  exact ⟨m, hm, (settle_kept h).1.drive.drives hd⟩

/-! ### SIM's bus access each half-clock -/

theorem SimState.memRead_ok {p : Params} {sim : SimState} {a : Addr} {d : Byte} (h : sim.memRead p a = .ok d) :
    a.toNat < p.busSize ∧ d = sim.mem.read a.toNat := by
  unfold SimState.memRead at h
  split at h <;> cases h
  exact ⟨‹_›, rfl⟩

theorem SimState.memWrite_ok {p : Params} {sim sim' : SimState} {a : Addr} {v : Byte}
    (h : sim.memWrite p a v = .ok sim') :
    a.toNat < p.busSize ∧ sim' = { sim with mem := sim.mem.write a.toNat v } := by
  unfold SimState.memWrite at h
  split at h <;> cases h
  exact ⟨‹_›, rfl⟩

/-- Everything `BusReadSync()` can do: nothing with `rw` low, else drive the data pins with the byte at the address
bus's address (R151). -/
theorem busReadSync_cases {p : Params} {mid sim' : SimState} (h : mid.busReadSync p = .ok sim') :
    (mid.readBit "rw" = .ok false ∧ sim' = mid) ∨
      (mid.readBit "rw" = .ok true ∧ ∃ a, mid.readAddressBus = .ok a ∧ a.toNat < p.busSize ∧
        mid.writeBits p "db" 8 (mid.mem.read a.toNat).toNat = .ok sim') := by
  obtain ⟨rw, hrw, h⟩ := bind_ok h
  cases rw with
  | false => cases h; exact .inl ⟨hrw, rfl⟩
  | true =>
    obtain ⟨a, ha, h⟩ := bind_ok h
    obtain ⟨d, hd, h⟩ := bind_ok h
    obtain ⟨hlt, rfl⟩ := SimState.memRead_ok hd
    exact .inr ⟨hrw, a, ha, hlt, h⟩

/-- Everything `BusWriteSync()` can do: nothing with `rw` high, else store the data bus's byte at the address bus's
address (R151). -/
theorem busWriteSync_cases {p : Params} {mid sim' : SimState} (h : mid.busWriteSync p = .ok sim') :
    (mid.readBit "rw" = .ok true ∧ sim' = mid) ∨
      (mid.readBit "rw" = .ok false ∧ ∃ a d, mid.readAddressBus = .ok a ∧ mid.readDataBus = .ok d ∧
        a.toNat < p.busSize ∧ sim' = { mid with mem := mid.mem.write a.toNat d }) := by
  obtain ⟨rw, hrw, h⟩ := bind_ok h
  cases rw with
  | true => cases h; exact .inl ⟨hrw, rfl⟩
  | false =>
    obtain ⟨a, ha, h⟩ := bind_ok h
    obtain ⟨d, hd, h⟩ := bind_ok h
    obtain ⟨hlt, rfl⟩ := SimState.memWrite_ok h
    exact .inr ⟨hrw, a, d, ha, hd, hlt, rfl⟩

/-- Everything a half-clock can do: a fall of `clk0` and the bus read, or a rise and the bus write (R150). -/
theorem halfClock_cases {p : Params} {sim sim' : SimState} (h : sim.halfClock p = .ok sim') :
    ∃ n mid, sim.lookup "clk0" = .ok n ∧
      (((sim.node n).state = true ∧ sim.writeBit p "clk0" .low = .ok mid ∧ mid.busReadSync p = .ok sim') ∨
        ((sim.node n).state = false ∧ sim.writeBit p "clk0" .high = .ok mid ∧ mid.busWriteSync p = .ok sim')) := by
  obtain ⟨c, hc, h⟩ := bind_ok h
  obtain ⟨n, hn, hc⟩ := bind_ok hc
  cases c with
  | true =>
    obtain ⟨mid, hw, h⟩ := bind_ok h
    exact ⟨n, mid, hn, .inl ⟨Except.ok.inj hc, hw, h⟩⟩
  | false =>
    obtain ⟨mid, hw, h⟩ := bind_ok h
    exact ⟨n, mid, hn, .inr ⟨Except.ok.inj hc, hw, h⟩⟩

/-- The bus access after a fall stores nothing, and with `rw` high drives the data pins (R151). -/
theorem busReadSync_serves {p : Params} {mid sim' : SimState} (h : mid.busReadSync p = .ok sim') :
    sim'.mem = mid.mem ∧ (mid.readBit "rw" = .ok false → sim' = mid) ∧
      (mid.readBit "rw" = .ok true → ∃ a, mid.readAddressBus = .ok a ∧ a.toNat < p.busSize ∧
        ∀ k, k < 8 → ∃ m, mid.lookup ("db" ++ toString k) = .ok m ∧
          sim'.Drives m (levelOf ((mid.mem.read a.toNat).getLsbD k))) := by
  obtain ⟨hrw, rfl⟩ | ⟨hrw, a, ha, hlt, hw⟩ := busReadSync_cases h
  · exact ⟨rfl, fun _ => rfl, fun e => Bool.noConfusion (Except.ok.inj (hrw.symm.trans e))⟩
  · exact ⟨writeBits_mem hw, fun e => Bool.noConfusion (Except.ok.inj (hrw.symm.trans e)),
      fun _ => ⟨a, ha, hlt, fun k hk => writeBits_drives (by decide) hw hk⟩⟩

/-- The bus access after a rise stores the data bus's byte with `rw` low and nothing with `rw` high; it moves no pin, so
all is read alike after it (R151). -/
theorem busWriteSync_serves {p : Params} {mid sim' : SimState} (h : mid.busWriteSync p = .ok sim') :
    sim'.readBit "rw" = .ok true ∧ sim'.mem = mid.mem ∨
      sim'.readBit "rw" = .ok false ∧ ∃ a d, sim'.readAddressBus = .ok a ∧ sim'.readDataBus = .ok d ∧
        a.toNat < p.busSize ∧ sim'.mem = mid.mem.write a.toNat d := by
  obtain ⟨hrw, rfl⟩ | ⟨hrw, a, d, ha, hd, hlt, rfl⟩ := busWriteSync_cases h
  · exact .inl ⟨hrw, rfl⟩
  · exact .inr ⟨hrw, a, d, ha, hd, hlt, rfl⟩

/-- Settles O58: `clk0` is driven to the level it was not at, and the bus is served after it has settled. -/
theorem halfClockBus : Obligations.HalfClockBus := by
  intro p sim sim' h
  obtain ⟨n, mid, hn, hcases⟩ := halfClock_cases h
  obtain ⟨hup, hdown, -⟩ := SimState.drives_levelOf.mp (halfClock_toggles hn h)
  obtain ⟨hs, hw, hsync⟩ | ⟨hs, hw, hsync⟩ := hcases
  · rw [hs] at hup hdown
    obtain ⟨hmem, hlow, hhigh⟩ := busReadSync_serves hsync
    rw [writeBit_mem hw] at hmem hhigh
    refine ⟨n, hn, fun _ => ⟨hdown, hup, hmem, mid, hw, hlow, fun hrw => ?_⟩,
      fun e => Bool.noConfusion (hs.symm.trans e)⟩
    obtain ⟨a, ha, hlt, hpins⟩ := hhigh hrw
    refine ⟨a, ha, hlt, fun k hk => ?_⟩
    obtain ⟨m, hm, hd⟩ := hpins k hk
    exact ⟨m, ((writeBit_held hw).circuit.lookup _).symm.trans hm, SimState.drives_levelOf.mp hd⟩
  · rw [hs] at hup hdown
    have hserved := busWriteSync_serves hsync
    rw [writeBit_mem hw] at hserved
    exact ⟨n, hn, fun e => Bool.noConfusion (hs.symm.trans e), fun _ => ⟨hup, hdown, hserved⟩⟩

/-- The pins of the chip with `clk0` and `rw` high, all address pins low, and one byte in memory. -/
def readingPins : SimState := ((Net.pinsOnly.bare [(0, 0xA5)]).setState 2 true).setState 8 true

/-- The fall of `clk0` with `rw` high happens: the byte at the address bus's address comes onto the data bus (R151). -/
theorem halfClock_readingPins : readingPins.lookup "clk0" = .ok 2 ∧ (readingPins.node 2).state = true ∧
    ∃ mid sim', readingPins.writeBit Params.spec "clk0" .low = .ok mid ∧ mid.readBit "rw" = .ok true ∧
      readingPins.halfClock Params.spec = .ok sim' ∧ sim'.readDataBus = .ok 0xA5 :=
  ⟨rfl, rfl, _, _, rfl, rfl, rfl, rfl⟩

end Sys2Proof.Machine

/-! PROOFS. The encoding contract (30_encoding.md R90 to R96), the length of every sequence (41_sequencer.md R173), the
cycle counts (R94, R215), and that SEQ never stops on a full bus (70_reset_and_hazards.md R458). -/

namespace Sys2Proof.Machine

/-! ### Bytes and instructions -/

/-- The opcode table gives every byte the row that carries it (R90, R96). -/
theorem opcode_decodeOpcode : ∀ b : Byte, (decodeOpcode b).opcode = b := by decide

/-- The operand bytes are there: they are taken, and the rest is left (R91). -/
theorem decode_cons_of_le {b : Byte} {rest : List Byte} (h : (decodeOpcode b).operandCount ≤ rest.length) :
    decode (b :: rest) = .ok (⟨decodeOpcode b, rest.take (decodeOpcode b).operandCount⟩,
      rest.drop (decodeOpcode b).operandCount) := if_pos h

/-- Too few operand bytes are no instruction. -/
theorem decode_cons_of_lt {b : Byte} {rest : List Byte} (h : rest.length < (decodeOpcode b).operandCount) :
    decode (b :: rest) = .error (.missingOperand (decodeOpcode b)) := if_neg h.not_ge

/-- The decoder reads an instruction exactly where its encoding stands (R90, R91). -/
theorem decode_eq_ok_iff {bytes rest : List Byte} {c : Asm} :
    decode bytes = .ok (c, rest) ↔ c.wellFormed = true ∧ encode c ++ rest = bytes := by
  rw [Asm.wellFormed, beq_iff_eq]
  constructor
  · intro h
    cases bytes with
    | nil => cases h
    | cons b tail =>
      obtain hlt | hle := Nat.lt_or_ge tail.length (decodeOpcode b).operandCount
      · rw [decode_cons_of_lt hlt] at h
        cases h
      · rw [decode_cons_of_le hle] at h
        cases h
        exact ⟨List.length_take_of_le hle, by simp [encode, opcode_decodeOpcode]⟩
  · rintro ⟨hlen, rfl⟩
    have hinstr : decodeOpcode c.instr.opcode = c.instr := decodeOpcode_opcode c.instr
    rw [encode, List.cons_append, decode_cons_of_le (by simp [hinstr, hlen]), hinstr, ← hlen, List.take_left,
      List.drop_left]

/-- Settles O8: the encoding of a well-formed instruction stands at the head of the bytes. -/
theorem encodeThenDecode : Obligations.EncodeThenDecode := fun _ _ hw => decode_eq_ok_iff.mpr ⟨hw, rfl⟩

/-- Settles O6: each word, run through the decoder. -/
theorem opcodeWords : Obligations.OpcodeWords :=
  ⟨rfl, rfl, rfl, rfl, rfl, rfl, rfl, rfl, rfl, rfl, rfl, rfl, rfl, rfl, rfl⟩

/-! ### The length of a sequence -/

/-- How many of a sequence's operations take a cycle: all but the free ones (R172). -/
def cyclesOf (ops : List MicroOp) : Nat := (ops.filter (fun op => !op.isFree)).length

/-- The penalty cycles a sequence always enqueues, whether or not they come to run (R94, R192, R198, R202). -/
def penaltyCycles : Penalty → Nat
  | .none => 0
  | .page => 1
  | .takenPage => 2

/-- The sequence begins with the opcode cycle and takes `n` cycles, that one included. -/
def TakesCycles (seq : List MicroOp) (n : Nat) : Prop := ∃ ops, seq = .opc :: ops ∧ cyclesOf ops + 1 = n

/-- The read forms (R181, R182, R185, R188, R192, R195, R198): an indexed one holds the cycle of its page crossing. -/
theorem readSequence_cycles {f : Format} {e : ReadFn} {seq : List MicroOp} (h : readSequence f e = some seq) :
    TakesCycles seq (readCycles f +
      penaltyCycles (if f = .abx ∨ f = .aby ∨ f = .izy then .page else .none)) := by
  cases f <;> cases h <;> exact ⟨_, rfl, rfl⟩

/-- The write forms (R183, R186, R189, R193, R196, R199). -/
theorem writeSequence_cycles {f : Format} {e : StoreFn} {seq : List MicroOp} (h : writeSequence f e = some seq) :
    TakesCycles seq (writeCycles f) := by
  cases f <;> cases h <;> exact ⟨_, rfl, rfl⟩

/-- The rmw forms (R184, R187, R190, R194, R197, R200): a write form's cycles, a read and a second write. -/
theorem rmwSequence_cycles {f : Format} {e : RmwFn} {seq : List MicroOp} (h : rmwSequence f e = some seq) :
    TakesCycles seq (writeCycles f + 2) := by
  cases f <;> cases h <;> exact ⟨_, rfl, rfl⟩

/-- Every row has its sequence, of the row's cycles and the penalty cycles always enqueued (R94, R173). -/
theorem rowSequence_cycles (i : Instr) :
    ∃ seq, rowSequence i.row = some seq ∧ TakesCycles seq (i.cycles + penaltyCycles i.row.penalty) := by
  cases rowKind i with
  | imp e h _ hk hp => exact ⟨_, h, _, rfl, by rw [hk, hp]; rfl⟩
  | read e h hs _ hk hp =>
    obtain ⟨seq, hseq⟩ := Option.isSome_iff_exists.mp hs
    exact ⟨seq, h.trans hseq, by rw [hk, hp]; exact readSequence_cycles hseq⟩
  | write e h hs _ hk hp _ =>
    obtain ⟨seq, hseq⟩ := Option.isSome_iff_exists.mp hs
    exact ⟨seq, h.trans hseq, by rw [hk, hp]; exact writeSequence_cycles hseq⟩
  | rmw e h hs _ hk hp _ =>
    obtain ⟨seq, hseq⟩ := Option.isSome_iff_exists.mp hs
    exact ⟨seq, h.trans hseq, by rw [hk, hp]; exact rmwSequence_cycles hseq⟩
  | branch c h _ hk hp _ => exact ⟨_, h, _, rfl, by rw [hk, hp]; rfl⟩
  | push v _ h _ hk hp _ => exact ⟨_, h, _, rfl, by rw [hk, hp]; rfl⟩
  | pull v h _ hk hp => exact ⟨_, h, _, rfl, by rw [hk, hp]; rfl⟩
  | fixed h => rcases h with rfl | rfl | rfl | rfl | rfl | rfl <;> exact ⟨_, rfl, _, rfl, rfl⟩

theorem decodeSequence_of_rowSequence {b : Byte} {seq : List MicroOp}
    (h : rowSequence (decodeOpcode b).row = some seq) : decodeSequence b = .ok seq := by
  rw [decodeSequence, h]

/-- Settles O7: the table both ways, the length of the row's sequence, and where the decoder reads an instruction. -/
theorem decodingTotal : Obligations.DecodingTotal := by
  refine ⟨opcode_decodeOpcode, decodeOpcode_opcode, fun b => ?_, fun _ _ _ => decode_eq_ok_iff.mp⟩
  obtain ⟨_, hseq, ops, rfl, hcycles⟩ := rowSequence_cycles (decodeOpcode b)
  exact ⟨ops, decodeSequence_of_rowSequence hseq, hcycles⟩

/-! ### Cycle counts -/

/-- The NMI sample bears on no cycle count. -/
theorem cycleCount_sampleNmi (i : Instr) (st : SeqState) : cycleCount i st.sampleNmi = cycleCount i st := by
  have hcarry : indexCarries i.format st.sampleNmi = indexCarries i.format st := by cases i.format <;> rfl
  have htaken : branchTaken i st.sampleNmi = branchTaken i st := by
    unfold branchTaken
    cases condOf i.mnemonic with
    | none => rfl
    | some c => cases c <;> rfl
  unfold cycleCount
  rw [hcarry, htaken]
  rfl

/-- Settles O15: the operations the row's sequence comes to run, after the opcode fetch. -/
theorem cycleCounts : Obligations.CycleCounts := by
  intro s hb hh hi i
  obtain ⟨ops, n, tr, hseq, hn, hcount, -, hdrives⟩ := drives_row i s.params.decimalMode s.seq.sampleNmi
  rw [← cycleCount_sampleNmi, hcount]
  exact (drives_instruction hb hh hi hseq hn hdrives).2

/-! ### No stop on a full bus -/

/-- On a full bus running a queue to its end answers a next state (R62). -/
theorem ofSeq_finish_next {s : State} (hb : FullBus s) (n : Nat) (st : SeqState) :
    ∃ t, s.ofSeq (finish s.params n st) = .next t := by
  obtain ⟨st', h⟩ := finish_ok hb n st
  exact ⟨s.setSeq st', by rw [h]; rfl⟩

/-- Every opcode's meaning answers a next state on a full bus: none is undefined (R93, R404). -/
theorem exec_next_of_fullBus {s : State} (hb : FullBus s) (i : Instr) : ∃ t, exec i s = .next t := by
  obtain ⟨ops, -, he⟩ := exec_eq_rowSequence i s
  rw [he]
  exact ofSeq_finish_next hb _ _

/-- On a full bus the opcode fetch is no fault, so no step of SEQ starts with one (R62, R171). -/
theorem SeqState.start_ne_fault {p : Params} (hp : p.busSize = 65536) (st : SeqState) (f : Fault) :
    st.start p ≠ .fault f := by
  simp only [SeqState.start, SeqState.memRead_full hp]
  cases st.q with
  | cons op rest => nofun
  | nil => cases st.poll <;> nofun

/-- Settles O24: of the four ways a step of SEQ starts, three run a queue to its end and the fourth does not occur. -/
theorem seqNeverStops : Obligations.SeqNeverStops := by
  intro s hb hh
  rw [step_eq_stepSeq hh, stepSeq]
  cases hs : s.seq.ready.start s.params with
  | inFlight => exact ofSeq_finish_next (s := s.setSeq s.seq.ready) hb _ _
  | interrupt v => exact ofSeq_finish_next (s := s.setSeq s.seq.ready.acknowledge) hb _ _
  | instruction i => exact exec_next_of_fullBus (s := s.setSeq s.seq.ready) hb i
  | fault f => exact absurd hs (SeqState.start_ne_fault hb _ f)

end Sys2Proof.Machine

/-! PROOFS. The switch network: the group walk and the value of a group, what a settle computes, and SIM's pins
(40_switch_network.md R125 to R133, R140 to R143). -/

namespace Sys2Proof.Machine

/-! ### The group walk -/

/-- The nodes the walk goes on to from `m`, in the order it does: none from a rail (R128). -/
def SimState.joined (sim : SimState) (m : Nat) : List Nat :=
  if sim.isRail m then []
  else ((sim.node m).terminals.filter (fun t => (sim.trans t).on)).map (fun t => (sim.trans t).other m)

theorem SimState.mem_joined {sim : SimState} {a b : Nat} : b ∈ sim.joined a ↔ sim.Joins a b := by
  unfold SimState.joined SimState.Joins
  cases sim.isRail a <;> simp [and_assoc]

/-- One level of the walk: a node not yet there is appended and each node it joins walked from (R128). -/
theorem SimState.addToGroup_succ (sim : SimState) (fuel : Nat) {group : List Nat} {m : Nat} (h : m ∉ group) :
    sim.addToGroup (fuel + 1) group m = (sim.joined m).foldl (sim.addToGroup fuel) (group ++ [m]) := by
  rw [SimState.addToGroup, if_neg (by simpa using h), SimState.joined]
  split
  · rfl
  · rw [List.foldl_map, List.foldl_filter]

theorem SimState.addToGroup_of_mem (sim : SimState) (fuel : Nat) {group : List Nat} {m : Nat} (h : m ∈ group) :
    sim.addToGroup (fuel + 1) group m = group := by
  rw [SimState.addToGroup, if_pos (by simpa using h)]

/-- Where the network holds together a node joins only nodes the array holds (R121, R122). -/
theorem Conductive.lt_of_mem_joined {sim : SimState} (hc : Conductive sim) {a b : Nat} (h : b ∈ sim.joined a) :
    b < sim.nodes.length := by
  obtain ⟨-, t, ht, -, rfl⟩ := SimState.mem_joined.mp h
  obtain ⟨-, -, -, -, -, htrans, -, hterminals⟩ := hc
  obtain ⟨-, h1, h2, -⟩ := htrans t (hterminals a t ht).1
  unfold Transistor.other
  split
  · exact h2
  · exact h1

/-- A group as the walk builds it: no node twice, and none that the array lacks. -/
structure SimState.IsGroup (sim : SimState) (group : List Nat) : Prop where
  nodup : group.Nodup
  lt : ∀ a ∈ group, a < sim.nodes.length

/-- A group is no longer than the array, which bounds the depth of the walk (R160). -/
theorem SimState.IsGroup.length_le {sim : SimState} {group : List Nat} (h : sim.IsGroup group) :
    group.length ≤ sim.nodes.length := by
  have hsub : group ⊆ List.range sim.nodes.length := fun a ha => List.mem_range.mpr (h.lt a ha)
  simpa using (List.subperm_of_subset h.nodup hsub).length_le

theorem SimState.IsGroup.snoc {sim : SimState} {group : List Nat} {m : Nat} (h : sim.IsGroup group)
    (hm : m ∉ group) (hlt : m < sim.nodes.length) : sim.IsGroup (group ++ [m]) := by
  refine ⟨List.nodup_append.mpr ⟨h.nodup, List.nodup_singleton m, ?_⟩, fun a ha => ?_⟩
  · rintro a ha b hb rfl
    exact hm (List.mem_singleton.mp hb ▸ ha)
  · obtain ha | ha := List.mem_append.mp ha
    · exact h.lt a ha
    · exact List.mem_singleton.mp ha ▸ hlt

/-- What walking from some roots makes of a group: it appends nodes reachable from a root, each root is there, and so is
every node that an appended one joins. -/
structure SimState.Walked (sim : SimState) (group roots result : List Nat) : Prop where
  isGroup : sim.IsGroup result
  grows : group <+: result
  roots_mem : ∀ r ∈ roots, r ∈ result
  reached : ∀ a ∈ result, a ∈ group ∨ ∃ r ∈ roots, Relation.ReflTransGen sim.Joins r a
  closed : ∀ a ∈ result, a ∉ group → ∀ b, sim.Joins a b → b ∈ result

namespace SimState.Walked

variable {sim : SimState} {group middle result roots : List Nat} {m : Nat}

theorem nil (h : sim.IsGroup group) : sim.Walked group [] group :=
  ⟨h, List.prefix_refl group, nofun, fun _ => .inl, fun _ ha hn => absurd ha hn⟩

theorem of_mem (h : sim.IsGroup group) (hm : m ∈ group) : sim.Walked group [m] group :=
  ⟨h, List.prefix_refl group, fun _ hr => List.mem_singleton.mp hr ▸ hm, fun _ => .inl, fun _ ha hn => absurd ha hn⟩

/-- Walking from one root and then from others. -/
theorem cons (h : sim.Walked group [m] middle) (k : sim.Walked middle roots result) :
    sim.Walked group (m :: roots) result := by
  have hsub := k.grows.subset
  refine ⟨k.isGroup, h.grows.trans k.grows, fun r hr => ?_, fun a ha => ?_, fun a ha hn b hb => ?_⟩
  · obtain rfl | hr := List.mem_cons.mp hr
    · exact hsub (h.roots_mem r List.mem_cons_self)
    · exact k.roots_mem r hr
  · obtain hmid | ⟨r, hr, hreach⟩ := k.reached a ha
    · refine (h.reached a hmid).imp_right ?_
      rintro ⟨r, hr, hreach⟩
      exact ⟨r, List.mem_cons.mpr (.inl (List.mem_singleton.mp hr)), hreach⟩
    · exact .inr ⟨r, List.mem_cons_of_mem m hr, hreach⟩
  · by_cases hmid : a ∈ middle
    · exact hsub (h.closed a hmid hn b hb)
    · exact k.closed a ha hmid b hb

/-- Walking from a new node is appending it and walking from the nodes it joins. -/
theorem visit (h : sim.Walked (group ++ [m]) (sim.joined m) result) : sim.Walked group [m] result := by
  have hm : m ∈ result := h.grows.subset (by simp)
  refine ⟨h.isGroup, (List.prefix_append group [m]).trans h.grows, fun r hr => List.mem_singleton.mp hr ▸ hm,
    fun a ha => ?_, fun a ha hn b hb => ?_⟩
  · obtain hold | ⟨r, hr, hreach⟩ := h.reached a ha
    · refine (List.mem_append.mp hold).imp_right fun e => ⟨m, List.mem_cons_self, ?_⟩
      rw [List.mem_singleton.mp e]
    · exact .inr ⟨m, List.mem_cons_self, hreach.head (SimState.mem_joined.mp hr)⟩
  · by_cases e : a = m
    · subst e
      exact h.roots_mem b (SimState.mem_joined.mpr hb)
    · exact h.closed a ha (by simp [hn, e]) b hb

/-- From an empty group the walk finds exactly what can be reached. -/
theorem mem_iff (h : sim.Walked [] [m] result) (a : Nat) : a ∈ result ↔ Relation.ReflTransGen sim.Joins m a := by
  constructor
  · intro ha
    obtain hnil | ⟨r, hr, hreach⟩ := h.reached a ha
    · cases hnil
    · exact List.mem_singleton.mp hr ▸ hreach
  · intro hreach
    induction hreach with
    | refl => exact h.roots_mem m List.mem_cons_self
    | tail _ hj ih => exact h.closed _ ih List.not_mem_nil _ hj

end SimState.Walked

/-- Walking from several roots in turn, where walking from one is known to do its work. The group and the levels left
outnumber the nodes. -/
theorem foldl_addToGroup_walked {sim : SimState} {fuel : Nat}
    (hone : ∀ (group : List Nat) (m : Nat), sim.IsGroup group → m < sim.nodes.length →
      sim.nodes.length < group.length + fuel → sim.Walked group [m] (sim.addToGroup fuel group m))
    (roots group : List Nat) (hg : sim.IsGroup group) (hr : ∀ r ∈ roots, r < sim.nodes.length)
    (hf : sim.nodes.length < group.length + fuel) :
    sim.Walked group roots (roots.foldl (sim.addToGroup fuel) group) := by
  induction roots generalizing group with
  | nil => exact .nil hg
  | cons m roots ih =>
    obtain ⟨hm, hr⟩ := List.forall_mem_cons.mp hr
    have hfirst := hone group m hg hm hf
    have hlen := hfirst.grows.length_le
    exact hfirst.cons (ih _ hfirst.isGroup hr (by omega))

/-- `Add(m)` does its work where the group and the levels left outnumber the nodes: no level is asked for and missing
(R128, R160). -/
theorem addToGroup_walked {sim : SimState} (hc : Conductive sim) (fuel : Nat) (group : List Nat) (m : Nat)
    (hg : sim.IsGroup group) (hm : m < sim.nodes.length) (hf : sim.nodes.length < group.length + fuel) :
    sim.Walked group [m] (sim.addToGroup fuel group m) := by
  induction fuel generalizing group m with
  | zero => exact absurd hf (Nat.not_lt.mpr hg.length_le)
  | succ fuel ih =>
    by_cases hin : m ∈ group
    · rw [sim.addToGroup_of_mem fuel hin]
      exact .of_mem hg hin
    · rw [sim.addToGroup_succ fuel hin]
      have hlen : sim.nodes.length < (group ++ [m]).length + fuel := by
        rw [List.length_append, List.length_singleton]; omega
      exact .visit (foldl_addToGroup_walked ih _ _ (hg.snoc hin hm) (fun _ => hc.lt_of_mem_joined) hlen)

/-- A group of a network that holds together: the seed, and then what walking from the nodes it joins appends (R128). -/
theorem buildGroup_walked {sim : SimState} (hc : Conductive sim) {n : Nat} (hn : n < sim.nodes.length) :
    sim.Walked [n] (sim.joined n) (sim.buildGroup n) := by
  have hseed : sim.IsGroup ([] ++ [n]) := SimState.IsGroup.snoc ⟨List.nodup_nil, nofun⟩ List.not_mem_nil hn
  rw [SimState.buildGroup, sim.addToGroup_succ _ List.not_mem_nil]
  exact foldl_addToGroup_walked (addToGroup_walked hc _) _ _ hseed (fun _ => hc.lt_of_mem_joined)
    (by rw [Nat.add_comm]; exact Nat.lt_succ_self _)

/-- Settles O55: what the walk from the seed leaves, and the seed it begins with. -/
theorem groupIsReachable : Obligations.GroupIsReachable := by
  intro sim n hc hn
  have h := buildGroup_walked hc hn
  obtain ⟨rest, hrest⟩ := h.grows
  exact ⟨(SimState.Walked.visit (group := []) h).mem_iff, h.isGroup.nodup, by rw [← hrest]; rfl⟩

/-! ### The value of a group -/

/-- The scan answers as the first node at which a test fires says, and low where there is none (R130, D2). -/
theorem scanGroup_eq (sim : SimState) (group : List Nat) :
    sim.scanGroup group =
      (sim.decider group).elim false (fun g => (sim.node g).pullUp || !(sim.node g).pullDown) := by
  induction group with
  | nil => rfl
  | cons g group ih =>
    rw [SimState.decider] at ih ⊢
    rw [SimState.scanGroup, List.find?_cons, ih]
    by_cases hup : (sim.node g).pullUp
    · simp [hup]
    by_cases hdown : (sim.node g).pullDown
    · simp [hup, hdown]
    by_cases hstate : (sim.node g).state
    · simp [hup, hdown, hstate]
    · simp [hup, hdown, hstate]

/-- Settles O54: the two rails in their order, and else the scan. -/
theorem groupValueRule : Obligations.GroupValueRule := by
  intro sim group
  refine ⟨fun hgnd => ?_, fun hgnd hpwr => ?_, fun hgnd hpwr => ?_⟩
  · simp [SimState.groupValue, hgnd]
  · simp [SimState.groupValue, hgnd, hpwr]
  · have hscan : sim.groupValue group = sim.scanGroup group := by simp [SimState.groupValue, hgnd, hpwr]
    rw [hscan, scanGroup_eq]
    exact ⟨fun g hg => by rw [hg]; rfl, fun hnone => by rw [hnone]; rfl⟩

/-! ### What a settle computes -/

/-- A settle is its passes over the worklist, the cap's number of them (R125, R126). -/
theorem settle_eq (p : Params) (sim : SimState) (seeds : List Nat) :
    sim.settle p seeds =
      (let last := Round.turn^[p.settleRoundCap] { sim := sim, next := sim.seedList seeds }
       if last.next = [] then .ok last.sim else .error .nonConvergence) := settleRounds_eq ..

/-- The passes of a settle that answers end, with an empty worklist, in the network it answers (R125). -/
theorem turn_iterate_of_settle {p : Params} {sim sim' : SimState} {seeds : List Nat} (h : sim.settle p seeds = .ok sim') :
    Round.turn^[p.settleRoundCap] { sim := sim, next := sim.seedList seeds } = { sim := sim', next := [] } := by
  simp only [settle_eq] at h
  split at h
  · rename_i hnext
    rw [← Except.ok.inj h, ← hnext]
  · cases h

/-- Rails alone, or no node at all, make an empty worklist (D23). -/
theorem seedList_eq_nil {sim : SimState} {seeds : List Nat} :
    sim.seedList seeds = [] ↔ ∀ n ∈ seeds, sim.isRail n = true := by
  obtain ⟨-, -, hmem⟩ := seedList_spec sim seeds
  simp [List.eq_nil_iff_forall_not_mem, hmem]

theorem settle_of_seedList_nil {p : Params} {sim : SimState} {seeds : List Nat} (h : sim.seedList seeds = []) :
    sim.settle p seeds = .ok sim := by
  simp only [settle_eq, h, Round.turn_iterate_nil, if_true]

/-- A worklist and no round to run is `Fatal(NonConvergence)` (R126). -/
theorem settle_of_cap_zero {p : Params} {sim : SimState} {seeds : List Nat} (hp : p.settleRoundCap = 0)
    (h : sim.seedList seeds ≠ []) : sim.settle p seeds = .error .nonConvergence := by
  simp only [settle_eq, hp, Function.iterate_zero_apply, if_neg h]

theorem recalcNode_of_rail {r : Round} {n : Nat} (h : r.sim.isRail n = true) : r.recalcNode n = r := by
  rw [Round.recalcNode, if_pos h]

theorem recalcNode_of_not_rail {r : Round} {n : Nat} (h : r.sim.isRail n = false) :
    r.recalcNode n =
      (r.sim.buildGroup n).foldl (Round.updateNode (r.sim.groupValue (r.sim.buildGroup n))) r := by
  rw [Round.recalcNode, if_neg (by simp [h])]

/-- Recalculating a node that is no rail commits its group's value to its group (R127, R131). -/
theorem recalcNode_committed {r : Round} {n : Nat} (hc : Conductive r.sim) (hn : n < r.sim.nodes.length)
    (hr : r.sim.isRail n = false) :
    Committed (r.sim.groupValue (r.sim.buildGroup n)) (r.sim.buildGroup n) r (r.recalcNode n) := by
  have hgroup := (buildGroup_walked hc hn).isGroup
  rw [recalcNode_of_not_rail hr]
  exact foldl_committed _ _ hc hgroup.nodup hgroup.lt

/-- Every transistor is on with its gate in a network that holds together, and its gate is that of the same circuit before
(R25). -/
theorem Conductive.on_of_sameCircuit {a b : SimState} (hb : Conductive b) (h : SameCircuit a b) {t : Nat}
    (ht : t < a.transistors.length) : (b.trans t).on = (b.node (a.trans t).gate).state := by
  obtain ⟨-, -, -, -, hlen, -, htrans⟩ := h
  obtain ⟨-, hgate, -⟩ := htrans t
  obtain ⟨-, -, -, -, -, hb, -⟩ := hb
  obtain ⟨-, -, -, hon, -⟩ := hb t (hlen ▸ ht)
  rwa [hgate] at hon

/-- Settles O52: the seeds, the passes and their frame; then one recalculation, which commits a value to a group. -/
theorem settleFrame : Obligations.SettleFrame := by
  refine ⟨fun p sim seeds => ?_, fun r n hc hn => ⟨recalcNode_of_rail, fun hr => ?_⟩⟩
  · obtain ⟨hsub, hnodup, hmem⟩ := seedList_spec sim seeds
    obtain ⟨hcount, hturns, hbusy⟩ := roundCount_spec p.settleRoundCap sim (sim.seedList seeds)
    refine ⟨hsub, hnodup, hmem, settle_eq p sim seeds, fun sim' h => ?_,
      fun hrails => settle_of_seedList_nil (seedList_eq_nil.mpr hrails), fun hp ⟨n, hn, hr⟩ => ?_⟩
    · obtain ⟨hcircuit, hdrive, hmemory, hphase⟩ := (settle_kept h).1
      exact ⟨hcircuit, hdrive, hmemory, hphase, hcount, hturns.trans (turn_iterate_of_settle h), hbusy⟩
    · exact settle_of_cap_zero hp (List.ne_nil_of_mem ((hmem n).mpr ⟨hn, hr⟩))
  · obtain ⟨hstate, hmore, hnodup, hnext⟩ := recalcNode_committed hc hn hr
    obtain ⟨⟨hcircuit, hdrive, hmemory, -⟩, hkeeps⟩ := recalcNode_kept r n
    exact ⟨hstate, fun t => (hkeeps hc).on_of_sameCircuit hcircuit, hnext, hmore, hnodup, hcircuit, hdrive, hmemory⟩

/-! ### Pin writes -/

/-- The note of the lifecycle is the phase alone (D24). -/
theorem noteStep_eq (before after : SimState) : ∃ phase, before.noteStep after = { after with phase := phase } := by
  unfold SimState.noteStep
  split
  · split
    · exact ⟨after.phase, rfl⟩
    · exact ⟨.stepped, rfl⟩
  all_goals exact ⟨after.phase, rfl⟩

theorem namesRail_of_lookup {sim : SimState} {name : String} {n : Nat} (h : sim.lookup name = .ok n) :
    sim.namesRail name = sim.isRail n := by
  simp only [SimState.namesRail, h]

theorem namesRail_of_missing {sim : SimState} {name : String} {f : Fault} (h : sim.lookup name = .error f) :
    sim.namesRail name = false := by
  simp only [SimState.namesRail, h]

/-- Writing a name that some node carries is the settle seeded with that node, once `SetNode` has driven it (R140). -/
theorem writeBit_of_lookup {p : Params} {sim : SimState} {name : String} {l : Level} {n : Nat}
    (h : sim.lookup name = .ok n) : sim.writeBit p name l = (sim.setNode n l).settle p [n] := by
  rw [SimState.writeBit, h]; rfl

section
variable {s : State} {name : String} {l : Level} {rest : List HostCmd}

theorem step_simWriteBit (hh : s.host = .simWriteBit name l :: rest) : step s = (s.setHost rest).simWriteBit name l :=
  step_eq_runCmd hh

/-- A rail is no pin to write (R140, D24). -/
theorem simWriteBit_of_rail (h : s.sim.namesRail name = true) : s.simWriteBit name l = .refused .simWriteToRail := by
  rw [State.simWriteBit, if_pos h]

theorem simWriteBit_of_not_rail (h : s.sim.namesRail name = false) :
    s.simWriteBit name l = s.stepSim (s.sim.writeBit s.params name l) := by
  rw [State.simWriteBit, if_neg (by simp [h])]

/-- A name no node carries is `Fatal(ConfigError)` (R142). -/
theorem simWriteBit_of_missing (h : s.sim.lookup name = .error .configError) :
    s.simWriteBit name l = .fault .configError := by
  rw [simWriteBit_of_not_rail (namesRail_of_missing h), SimState.writeBit, h]; rfl

end

/-- What the call leaves of the drives and of memory is what the write leaves (R140). -/
theorem stepSim_writeBit_drive {s t : State} {name : String} {l : Level} {n : Nat} (hl : s.sim.lookup name = .ok n)
    (h : s.stepSim (s.sim.writeBit s.params name l) = .next t) :
    t.sim.Drives n l ∧ t.sim.mem = s.sim.mem ∧
      ∀ k, k ≠ n → (t.sim.node k).pullUp = (s.sim.node k).pullUp ∧ (t.sim.node k).pullDown = (s.sim.node k).pullDown ∧
        (t.sim.node k).floating = (s.sim.node k).floating := by
  obtain ⟨sim', hw, rfl⟩ := stepSim_next h
  obtain ⟨hdrive, hmem, -, hothers⟩ := writeBit_drive hl hw
  obtain ⟨phase, he⟩ := noteStep_eq s.sim sim'
  rw [State.setSim_sim, he]
  exact ⟨hdrive, hmem, hothers⟩

/-- Settles O56: the name is that of a pin, of a rail, or of no node. -/
theorem pinWrites : Obligations.PinWrites := by
  intro s name l rest hh
  rw [step_simWriteBit hh]
  refine ⟨fun n hl hr => ?_, fun n hl => ⟨(lookup_node hl).2, fun hr => ?_⟩, fun hmissing => ?_⟩
  · rw [simWriteBit_of_not_rail (s := s.setHost rest) ((namesRail_of_lookup hl).trans hr)]
    refine ⟨fun sim' h => ?_, fun f h => ?_, fun k => ?_, fun t h => ?_⟩
    · exact congrArg (s.setHost rest).stepSim ((writeBit_of_lookup hl).trans h)
    · exact congrArg (s.setHost rest).stepSim ((writeBit_of_lookup hl).trans h)
    · split
      · rename_i hk
        subst hk
        rw [SimState.node_setNode, if_pos ⟨rfl, (lookup_node hl).1⟩]
        rfl
      · exact setNode_other s.sim l ‹_›
    · obtain ⟨⟨hup, hdown, hfloat⟩, hmem, hothers⟩ := stepSim_writeBit_drive (s := s.setHost rest) hl h
      exact ⟨hup, hdown, hfloat, hmem, hothers⟩
  · exact simWriteBit_of_rail ((namesRail_of_lookup hl).trans hr)
  · exact simWriteBit_of_missing (lookup_of_missing hmissing)

/-! ### Pin readers -/

/-- A computation in two parts fails as the first does, or as the second does after it. -/
theorem bind_error {α β : Type} {x : Except Fault α} {f : α → Except Fault β} {e : Fault} (h : (x >>= f) = .error e) :
    x = .error e ∨ ∃ a, x = .ok a ∧ f a = .error e := by
  cases x with
  | ok a => exact .inr ⟨a, rfl, h⟩
  | error e' => cases h; exact .inl rfl

/-- A reader fails only for a missing name (R142, R143). -/
theorem readBit_error {sim : SimState} {name : String} {f : Fault} (h : sim.readBit name = .error f) :
    sim.lookup name = .error .configError ∧ f = .configError := by
  obtain hl | ⟨n, -, hn⟩ := bind_error h
  · obtain rfl := lookup_error hl
    exact ⟨hl, rfl⟩
  · cases hn

theorem readNames_error {sim : SimState} (names : List String) {f : Fault} (h : sim.readNames names = .error f) :
    f = .configError ∧ ∃ name ∈ names, sim.lookup name = .error .configError := by
  induction names with
  | nil => cases h
  | cons name names ih =>
    obtain hb | ⟨b, -, h⟩ := bind_error h
    · obtain ⟨hl, rfl⟩ := readBit_error hb
      exact ⟨rfl, name, List.mem_cons_self, hl⟩
    · obtain hr | ⟨r, -, h⟩ := bind_error h
      · obtain ⟨hf, other, hmem, hl⟩ := ih hr
        exact ⟨hf, other, List.mem_cons_of_mem name hmem, hl⟩
      · cases h

/-- The number read is below `2 ^ n` for `n` names, and its bit `k` is the `k`-th node's state (R143). -/
theorem readNames_ok {sim : SimState} (names : List String) {v : Nat} (h : sim.readNames names = .ok v) :
    v < 2 ^ names.length ∧ ∀ (k : Nat) (name : String), names[k]? = some name → sim.readBit name = .ok (v.testBit k) := by
  induction names generalizing v with
  | nil => cases h; exact ⟨by decide, nofun⟩
  | cons first names ih =>
    obtain ⟨b, hb, h⟩ := bind_ok h
    obtain ⟨r, hr, h⟩ := bind_ok h
    cases h
    obtain ⟨hlt, hbits⟩ := ih hr
    have hv : b.toNat + 2 * r = Nat.bit b r := by rw [Nat.bit_val, Nat.add_comm]
    rw [hv]
    refine ⟨Nat.bit_lt_two_pow_succ_iff.mpr hlt, fun k name hk => ?_⟩
    cases k with
    | zero => cases hk; rw [Nat.testBit_bit_zero]; exact hb
    | succ k => rw [Nat.testBit_bit_succ]; exact hbits k name hk

theorem bitNames_getElem? {base : String} {n k : Nat} (hk : k < n) : (bitNames base n)[k]? = some (base ++ toString k) := by
  simp [bitNames, hk]

/-- `ReadBits` succeeds where every name exists (R142, R143). -/
theorem readBits_ok_of_named {sim : SimState} {base : String} {n : Nat}
    (h : ∀ k, k < n → ∃ i, (sim.node i).name = some (base ++ toString k)) : ∃ v, sim.readBits base n = .ok v := by
  cases hr : sim.readBits base n with
  | ok v => exact ⟨v, rfl⟩
  | error f =>
    obtain ⟨-, name, hmem, hl⟩ := readNames_error _ hr
    obtain ⟨k, hk, rfl⟩ := List.mem_map.mp hmem
    obtain ⟨i, hi⟩ := h k (List.mem_range.mp hk)
    obtain ⟨m, hm⟩ := lookup_of_named hi
    cases hl.symm.trans hm

/-- One missing name is enough for `Fatal(ConfigError)`, wherever it stands (R142). -/
theorem readBits_of_missing {sim : SimState} {base : String} {n k : Nat} (hk : k < n)
    (h : ∀ i, (sim.node i).name ≠ some (base ++ toString k)) : sim.readBits base n = .error .configError := by
  cases hr : sim.readBits base n with
  | ok v =>
    have hbit := (readNames_ok _ hr).2 k _ (bitNames_getElem? hk)
    obtain ⟨m, hm, -⟩ := bind_ok hbit
    cases (lookup_of_missing h).symm.trans hm
  | error f => rw [(readNames_error _ hr).1]

theorem step_simReadBits {s : State} {base : String} {n : Nat} {rest : List HostCmd}
    (hh : s.host = .simReadBits base n :: rest) : step s = (s.setHost rest).readSim (s.sim.readBits base n) :=
  step_eq_runCmd hh

/-- Settles O57: the number bit by bit, and the two outcomes of the call. -/
theorem pinReads : Obligations.PinReads := by
  intro s base n rest _
  refine ⟨fun v hv => ?_, fun hnamed => ?_, fun k hk hmissing => ?_⟩
  · obtain ⟨hlt, hbits⟩ := readNames_ok _ hv
    exact ⟨by simpa [bitNames] using hlt, fun k hk => hbits k _ (bitNames_getElem? hk)⟩
  · obtain ⟨v, hv⟩ := readBits_ok_of_named hnamed
    exact ⟨⟨v, hv⟩, fun hh => by rw [step_simReadBits hh, hv]; rfl⟩
  · have hr := readBits_of_missing hk hmissing
    exact ⟨hr, fun hh => by rw [step_simReadBits hh, hr]; rfl⟩

end Sys2Proof.Machine

/-! PROOFS. The sequencer: what precedes a cycle, a step as a run of `Clock()` calls, the bus accesses of every
instruction, and a sequence in flight (41_sequencer.md R170 to R208). -/

namespace Sys2Proof.Machine

/-! ### Before the cycle, and the step of a decoded instruction -/

/-- Settles O10: a queue is empty, is the free tail alone, or begins with an operation that takes a cycle. -/
theorem beforeTheCycle : Obligations.BeforeTheCycle := fun _ =>
  ⟨SeqState.ready_nil, SeqState.ready_setPcAd, fun _ _ => SeqState.ready_cons⟩

/-- What is decoded is the instruction of the first byte (R90). -/
theorem decode_instr {b : Byte} {tail rest : List Byte} {c : Asm} (h : decode (b :: tail) = .ok (c, rest)) :
    c.instr = decodeOpcode b := by
  obtain ⟨-, he⟩ := decode_eq_ok_iff.mp h
  rw [← (List.cons.inj he).1, decodeOpcode_opcode]

/-- Settles O9: no interrupt is due, and the first of the three bytes alone selects the instruction. -/
theorem decodedStep : Obligations.DecodedStep := by
  intro s c rest hh hq hlt hnmi hirq hdec
  have hpoll : s.seq.ready.poll = .opcode := poll_opcode hnmi (by simpa using hirq)
  rw [step_instruction hh hq hpoll hlt, decode_instr hdec]

/-- Settles O16: the opcode fetch, then the accesses of the row's sequence, on which no pending call of the host bears. -/
theorem busTraces : Obligations.BusTraces := by
  intro s hb hi i
  obtain ⟨ops, n, tr, hseq, hn, hcount, htrace, hdrives⟩ := drives_row i s.params.decimalMode s.seq.sampleNmi
  rw [← cycleCount_sampleNmi, hcount, ← instrTrace_sampleNmi, htrace]
  exact (drives_instruction (s := s.setHost []) hb rfl hi hseq hn hdrives).1

/-! ### A step is filling the queue and running it to its end -/

/-- What is left of an interrupt's sequence after its first cycle (R414). -/
theorem interruptSequence_tail_shape (v : Addr) : QueueShape (interruptSequence v).tail := by
  unfold QueueShape; simp [interruptSequence, MicroOp.isFree]

/-- Where an IRQ is taken no NMI is pending, so there is none to acknowledge (R412, R413). -/
theorem SeqState.acknowledge_of_irq {st : SeqState} (h : st.poll = .irq) : st.acknowledge = st := by
  have hnone : st.nmiPending = false := by
    cases hn : st.nmiPending with
    | false => rfl
    | true => simp [SeqState.poll, hn] at h
  rw [SeqState.acknowledge, ← hnone]

/-- R171 once for a whole step: the queue `Clock()` would fill is run to its end. -/
theorem step_eq_finish_refill {s : State} (hb : FullBus s) (hh : s.host = []) (hs : QueueShape s.seq.q) :
    ∃ r op rest, s.seq.ready.refill s.params = .ok r ∧ r.q = op :: rest ∧ op.isFree = false ∧ QueueShape rest ∧
      rest.length ≤ 7 ∧ r.nmiPrev = r.nmiLine ∧ step s = s.ofSeq (finish s.params (rest.length + 1) r) := by
  have hseen : s.seq.ready.nmiPrev = s.seq.ready.nmiLine := by simp
  obtain hq | ⟨op, rest, hq, hf⟩ := s.seq.ready_q
  · cases hpoll : s.seq.ready.poll with
    | nmi =>
      refine ⟨{ s.seq.ready with nmiPending := false, q := interruptSequence nmiVector }, _, _, ?_, rfl, rfl,
        interruptSequence_tail_shape nmiVector, by decide, hseen, ?_⟩
      · simp [SeqState.refill, hq, SeqState.dispatch, hpoll]
      · simp only [step_eq_stepSeq hh, stepSeq, SeqState.start, hq, hpoll]
        rfl
    | irq =>
      refine ⟨{ s.seq.ready with q := interruptSequence irqVector }, _, _, ?_, rfl, rfl,
        interruptSequence_tail_shape irqVector, by decide, hseen, ?_⟩
      · simp [SeqState.refill, hq, SeqState.dispatch, hpoll]
      · simp only [step_eq_stepSeq hh, stepSeq, SeqState.start, hq, hpoll, SeqState.acknowledge_of_irq hpoll]
        rfl
    | opcode =>
      obtain ⟨ops, hdec, hrow, hshape, -, hlen⟩ := decodeSequence_cases (s.seq.ready.peek s.seq.ready.pc)
      refine ⟨{ s.seq.ready with q := .opc :: ops }, _, _, ?_, rfl, rfl, hshape, hlen, hseen, ?_⟩
      · simp [SeqState.refill, hq, SeqState.dispatch, hpoll, SeqState.memRead_full hb, hdec]
      · simp only [step_eq_stepSeq hh, stepSeq, SeqState.start, hq, hpoll, SeqState.memRead_full hb,
          exec_of_rowSequence hrow]
        rfl
  · have hshape : QueueShape (op :: rest) := hq ▸ hs.ready
    refine ⟨s.seq.ready, op, rest, by simp [SeqState.refill, hq], hq, hf, hshape.tail,
      Nat.le_of_succ_le_succ hshape.1, hseen, ?_⟩
    rw [step_inFlight hh (by simp [hq]), finishInFlight, State.setSeq_seq, hq]
    rfl

/-- Settles O14: the first `Clock()` fills the queue, and each operation left in it takes at most one. -/
theorem stepIsCycles : Obligations.StepIsCycles := by
  intro s hb hh hs
  obtain ⟨r, op, rest, hr, hq, hf, hshape, hlen, hseen, hstep⟩ := step_eq_finish_refill hb hh hs
  obtain ⟨n, st, hn1, hn2, hfin, hclk⟩ := refill_finish hb rest.length hr hq hf hshape hseen
  exact ⟨n, st, hn1, by omega, hclk, by rw [hstep, hfin]; rfl⟩

/-! ### Running a queue to its end, one operation at a time -/

/-- At an instruction boundary: nothing is left of the queue but the free tail (R172, R451). -/
def SeqState.AtBoundary (st : SeqState) : Prop := ∀ op rest, st.q = op :: rest → op.isFree = true

theorem SeqState.AtBoundary.of_end {st : SeqState} (h : st.q = [] ∨ st.q = [.setPcAd]) : st.AtBoundary := by
  intro op rest hq
  rcases h with h | h <;> cases hq.symm.trans h
  rfl

theorem SeqState.not_atBoundary {st : SeqState} {op : MicroOp} {rest : List MicroOp} (hq : st.q = op :: rest)
    (hf : op.isFree = false) : ¬ st.AtBoundary :=
  fun h => Bool.noConfusion (hf.symm.trans (h op rest hq))

/-- A run from a boundary runs nothing. -/
theorem finish_atBoundary (p : Params) (n : Nat) {st : SeqState} (h : st.AtBoundary) : finish p n st = .ok st := by
  cases n with
  | zero => rfl
  | succ n =>
    unfold finish
    split
    · rfl
    · rename_i op rest hq
      exact if_pos (h op rest hq)

/-- A run before the boundary executes the operation at the queue's head and goes on. -/
theorem finish_succ (p : Params) (n : Nat) {st : SeqState} {op : MicroOp} {rest : List MicroOp} (hq : st.q = op :: rest)
    (hf : op.isFree = false) : finish p (n + 1) st = (runOp p op { st with q := rest }).bind (finish p n) := by
  rw [finish]
  simp only [hq, hf, Bool.false_eq_true, if_false]
  cases runOp p op { st with q := rest } <;> rfl

/-- A state is at a boundary, or an operation that takes a cycle is at the queue's head. -/
theorem SeqState.atBoundary_or_head (st : SeqState) :
    st.AtBoundary ∨ ∃ op rest, st.q = op :: rest ∧ op.isFree = false := by
  cases hq : st.q with
  | nil => exact .inl fun _ _ e => nomatch hq.symm.trans e
  | cons op rest =>
    cases hf : op.isFree with
    | true => exact .inl fun op' rest' e => by cases hq.symm.trans e; exact hf
    | false => exact .inr ⟨op, rest, rfl, hf⟩

/-- Everything the first operation of a run can do: there is none to run, or it succeeds and the run goes on. -/
theorem finish_succ_cases {p : Params} {n : Nat} {st st' : SeqState} (h : finish p (n + 1) st = .ok st') :
    st' = st ∨ ∃ op rest st1, st.q = op :: rest ∧ op.isFree = false ∧
      runOp p op { st with q := rest } = .ok st1 ∧ finish p n st1 = .ok st' := by
  obtain hend | ⟨op, rest, hq, hf⟩ := st.atBoundary_or_head
  · rw [finish_atBoundary p _ hend] at h
    cases h
    exact .inl rfl
  · rw [finish_succ p n hq hf] at h
    cases hrun : runOp p op { st with q := rest } with
    | error f => rw [hrun] at h; cases h
    | ok st1 => rw [hrun] at h; exact .inr ⟨op, rest, st1, hq, hf, hrun, h⟩

/-! ### A sequence in flight -/

/-- With something left to run after the free tail, the NMI sample is all that precedes the cycle. -/
theorem QueueShape.head_of_inFlight {st : SeqState} (hs : QueueShape st.q) (h : st.ready.q ≠ []) :
    ∃ op rest, st.q = op :: rest ∧ op.isFree = false := by
  cases hq : st.q with
  | nil => exact absurd (by rw [SeqState.ready_nil hq]; exact hq) h
  | cons op rest =>
    refine ⟨op, rest, rfl, Bool.eq_false_iff.mpr fun hf => h ?_⟩
    rw [SeqState.ready_setPcAd (hq.trans ((hq ▸ hs).of_free hf))]

/-- What precedes the cycle of a sequence in flight comes to nothing the second time. -/
theorem SeqState.clocks_ready {p : Params} {st : SeqState} {op : MicroOp} {rest : List MicroOp} (hq : st.q = op :: rest)
    (hf : op.isFree = false) (n : Nat) : st.ready.clocks p (n + 1) = st.clocks p (n + 1) := by
  have hclk : st.ready.clock p = st.clock p := by
    rw [SeqState.ready_cons hq hf, SeqState.clock_cons hq hf, SeqState.clock_cons (st := st.sampleNmi) hq hf,
      SeqState.sampleNmi_of_seen (st := st.sampleNmi) rfl]
  rw [SeqState.clocks, SeqState.clocks, hclk]

/-- Running a queue to its end is the `Clock()` calls up to the first instruction boundary: before each of them an
operation that takes a cycle is left (R171). -/
theorem finish_eq_clocks_to_boundary {p : Params} (n : Nat) {st st' : SeqState} (hseen : st.nmiPrev = st.nmiLine)
    (h : finish p n st = .ok st') : ∃ k, st.clocks p k = .ok st' ∧
      ∀ j x, j < k → st.clocks p j = .ok x → ¬ x.AtBoundary := by
  induction n generalizing st with
  | zero => exact ⟨0, h, nofun⟩
  | succ n ih =>
    obtain rfl | ⟨op, rest, st1, hq, hf, hrun, hfin⟩ := finish_succ_cases h
    · exact ⟨0, rfl, nofun⟩
    · obtain ⟨-, ⟨-, hline, hprev, -⟩, -⟩ := runOp_frame hrun
      obtain ⟨k, hk, hbefore⟩ := ih (hprev.trans (hseen.trans hline.symm)) hfin
      have hclk : ∀ j, st.clocks p (j + 1) = st1.clocks p j := fun j => by
        rw [SeqState.clocks, SeqState.clock_cons hq hf, SeqState.sampleNmi_of_seen hseen, hrun]
      refine ⟨k + 1, (hclk k).trans hk, fun j x hj hx => ?_⟩
      cases j with
      | zero =>
        cases hx
        exact SeqState.not_atBoundary hq hf
      | succ j => exact hbefore j x (by omega) ((hclk j).symm.trans hx)

/-! ### The interrupt inputs bear on no operation -/

/-- The interrupt inputs and their hidden state, replaced (R37). -/
def SeqState.withLines (irq nmi prev pending : Bool) (st : SeqState) : SeqState :=
  st.withInputs irq nmi prev pending st.mem

section
variable (irq nmi prev pending : Bool)

theorem MicroOp.effect_withLines (mode : DecimalMode) (op : MicroOp) (d : Byte) (st : SeqState) :
    op.effect mode d (st.withLines irq nmi prev pending) = (op.effect mode d st).withLines irq nmi prev pending := by
  rw [SeqState.withLines, MicroOp.effect_withInputs, SeqState.withLines, MicroOp.effect_mem]

theorem SeqState.memWrite_withLines (p : Params) (st : SeqState) (a : Addr) (v : Byte) :
    (st.withLines irq nmi prev pending).memWrite p a v =
      (st.memWrite p a v).map (SeqState.withLines irq nmi prev pending) := by
  unfold SeqState.memWrite
  split <;> rfl

theorem runOp_withLines (p : Params) (op : MicroOp) (st : SeqState) :
    runOp p op (st.withLines irq nmi prev pending) =
      (runOp p op st).map (SeqState.withLines irq nmi prev pending) := by
  have hreq : op.request p.decimalMode (st.withLines irq nmi prev pending) = op.request p.decimalMode st :=
    op.request_withInputs irq nmi prev pending st.mem p.decimalMode st
  have hread : ∀ a, (st.withLines irq nmi prev pending).memRead p a = st.memRead p a := fun _ => rfl
  unfold runOp
  rw [hreq]
  cases op.request p.decimalMode st with
  | idle => simp only [MicroOp.effect_withLines, Except.map]
  | read a =>
    simp only [hread]
    cases st.memRead p a <;> simp only [MicroOp.effect_withLines, Except.map]
  | write a v =>
    simp only [SeqState.memWrite_withLines]
    cases st.memWrite p a v <;> simp only [MicroOp.effect_withLines, Except.map]

/-- A run takes the inputs along and does nothing else with them (R413). -/
theorem finish_withLines (p : Params) (n : Nat) (st : SeqState) :
    finish p n (st.withLines irq nmi prev pending) =
      (finish p n st).map (SeqState.withLines irq nmi prev pending) := by
  induction n generalizing st with
  | zero => rfl
  | succ n ih =>
    obtain hend | ⟨op, rest, hq, hf⟩ := st.atBoundary_or_head
    · rw [finish_atBoundary p _ hend, finish_atBoundary p _ (st := st.withLines irq nmi prev pending) hend]
      rfl
    · have hrun := runOp_withLines irq nmi prev pending p op { st with q := rest }
      rw [finish_succ p n hq hf, finish_succ p n (st := st.withLines irq nmi prev pending) hq hf]
      refine (congrArg (·.bind (finish p n)) hrun).trans ?_
      cases runOp p op { st with q := rest } with
      | ok st1 => exact ih st1
      | error f => rfl

/-- With a sequence in flight, `ready` is the NMI sample, which sees the inputs alone (R411). -/
theorem SeqState.ready_withLines_of_cons {st : SeqState} {op : MicroOp} {rest : List MicroOp} (hq : st.q = op :: rest)
    (hf : op.isFree = false) : (st.withLines irq nmi prev pending).ready =
      st.ready.withLines irq nmi nmi (pending || (nmi && !prev)) := by
  rw [SeqState.ready_cons hq hf, SeqState.ready_cons (st := st.withLines irq nmi prev pending) hq hf]
  rfl

end

/-- A step that finds a sequence in flight answers what running it to its end does. -/
theorem step_of_finish {s : State} {st : SeqState} (hh : s.host = []) (hq : s.seq.ready.q ≠ [])
    (h : finish s.params s.seq.ready.q.length s.seq.ready = .ok st) : step s = .next (s.setSeq st) := by
  rw [step_inFlight hh hq, finishInFlight, State.setSeq_seq, State.setSeq_params, h]
  rfl

/-- Settles O12: the run to the queue's end, as `Clock()` calls and under other inputs. -/
theorem inFlightFinishes : Obligations.InFlightFinishes := by
  intro s hb hh hs hne
  obtain ⟨op, rest, hq, hf⟩ := hs.head_of_inFlight hne
  obtain ⟨st, hfin⟩ := finish_ok hb s.seq.ready.q.length s.seq.ready
  have hend := finish_end _ hs.ready.free (Nat.le_refl _) hfin
  obtain ⟨⟨hirq, hnmi, hprev, hpending⟩, -⟩ := finish_frame _ hfin
  refine ⟨s.setSeq st, step_of_finish hh hne hfin, hfin, rfl, hend, ?_, hpending, by simpa using hirq,
    by simpa using hnmi, fun irq nmi prev pending => ⟨pending || (nmi && !prev), ?_⟩⟩
  · obtain ⟨k, hk, hbefore⟩ := finish_eq_clocks_to_boundary _ (by simp) hfin
    cases k with
    | zero =>
      cases hk
      exact absurd (SeqState.AtBoundary.of_end hend)
        (SeqState.not_atBoundary ((congrArg SeqState.q (SeqState.ready_cons hq hf)).trans hq) hf)
    | succ n =>
      refine ⟨n, (SeqState.clocks_ready hq hf n).symm.trans hk, fun j x hj hjn hx => ?_⟩
      obtain ⟨i, rfl⟩ := Nat.exists_eq_add_of_le' hj
      exact not_or.mp fun he => hbefore (i + 1) x (by omega) ((SeqState.clocks_ready hq hf i).trans hx) (.of_end he)
  · have hr := s.seq.ready_withLines_of_cons irq nmi prev pending hq hf
    refine step_of_finish (s := s.setSeq (s.seq.withLines irq nmi prev pending)) hh ?_ ?_
    · rw [State.setSeq_seq, hr]; exact hne
    · simp only [State.setSeq_seq, State.setSeq_params, hr]
      exact (finish_withLines ..).trans (congrArg _ hfin)

end Sys2Proof.Machine

/-! PROOFS. The latches: which an instruction can write, and that no result depends on one an earlier instruction left
(10_state.md R35; 41_sequencer.md R175 to R179, R229). -/

namespace Sys2Proof.Machine

/-! ### Which latches an operation, a run and an instruction can write -/

/-- The latches a rule names together (R35): a pair, or `DL`, which is in none. -/
abbrev LatchGroup := Option LatchPair

/-- A group's bytes among those of all five latches. -/
def LatchGroup.pick (g : LatchGroup) (adl adh eal eah dl : Byte) : List Byte :=
  match g with
  | some .ad => [adh, adl]
  | some .ea => [eah, eal]
  | none => [dl]

/-- The bytes a group of latches holds. -/
def SeqState.latches (g : LatchGroup) (st : SeqState) : List Byte := g.pick st.adl st.adh st.eal st.eah st.dl

/-- The latches the "effect" column of R176 to R179 writes. -/
def MicroOp.writes : MicroOp → List LatchGroup
  | .imm _ | .brOffset _ | .read _ _ | .rmwFinal _ _ | .pull _ | .pullInc _ => [none]
  | .fetchAdl | .fetchZp | .fetchAdh | .fetchAdhJmp | .zpIndex _ | .vecLo _ | .vecHi _ => [some .ad]
  | .fetchEal | .fetchEah | .fetchEahJmp => [some .ea]
  | .readIdx l _ _ | .fixRead l _ => [none, some l]
  | .dummyIdx l _ => [some l]
  | .opc | .intT0 | .dummyPc _ | .dummyPcInc | .brTake | .brFix | .write _ _ | .rmwDummy _ | .push _ | .resetPush
  | .stackDummy | .pullDummy | .setPcAd => []

section
variable {g : LatchGroup} (st : SeqState)

@[simp] theorem ImpFn.apply_latches (e : ImpFn) : (e.apply st).latches g = st.latches g := by
  simp [SeqState.latches]

@[simp] theorem ReadFn.apply_latches (mode : DecimalMode) (e : ReadFn) (m : Byte) :
    (e.apply mode m st).latches g = st.latches g := by
  simp [SeqState.latches]

@[simp] theorem LoadFn.apply_latches (l : LoadFn) (m : Byte) : (l.apply m st).latches g = st.latches g := by
  simp [SeqState.latches]

@[simp] theorem RmwFn.apply_latches (mode : DecimalMode) (e : RmwFn) (m : Byte) :
    (e.apply mode m st).st.latches g = st.latches g := by
  simp [SeqState.latches]

@[simp] theorem SeqState.dropNext_latches : st.dropNext.latches g = st.latches g := rfl

theorem LatchPair.setLo_latches (l : LatchPair) (v : Byte) (h : g ≠ some l) :
    (l.setLo v st).latches g = st.latches g :=
  match l, g, h with
  | .ad, none, _ | .ad, some .ea, _ | .ea, none, _ | .ea, some .ad, _ => rfl
  | .ad, some .ad, h | .ea, some .ea, h => absurd rfl h

theorem LatchPair.setHi_latches (l : LatchPair) (v : Byte) (h : g ≠ some l) :
    (l.setHi v st).latches g = st.latches g :=
  match l, g, h with
  | .ad, none, _ | .ad, some .ea, _ | .ea, none, _ | .ea, some .ad, _ => rfl
  | .ad, some .ad, h | .ea, some .ea, h => absurd rfl h

theorem SeqState.latches_withDl (h : g ≠ none) (d : Byte) : { st with dl := d }.latches g = st.latches g :=
  match g, h with
  | some .ad, _ | some .ea, _ => rfl
  | none, h => absurd rfl h

/-- An operation leaves every latch it does not write as it was. -/
theorem MicroOp.effect_latches (mode : DecimalMode) {op : MicroOp} (d : Byte) (h : g ∉ op.writes) :
    (op.effect mode d st).latches g = st.latches g := by
  cases op <;> simp only [MicroOp.writes, List.mem_cons, List.not_mem_nil, or_false, not_or] at h <;>
    simp only [MicroOp.effect]
  case dummyPc e => cases e <;> simp [applyImp]
  case imm e => exact (ReadFn.apply_latches ..).trans (SeqState.latches_withDl st h d)
  case read l e => cases e <;> simp [applyRead, SeqState.latches_withDl st h]
  case rmwFinal l e => exact (SeqState.latches_withDl _ h _).trans (RmwFn.apply_latches ..)
  case pull l => exact (LoadFn.apply_latches ..).trans (SeqState.latches_withDl st h d)
  case pullInc l => exact (LoadFn.apply_latches ..).trans (SeqState.latches_withDl st h d)
  case brOffset c => split <;> exact SeqState.latches_withDl st h d
  case brTake => split <;> rfl
  case readIdx l r e =>
    split <;> simp [LatchPair.setLo_latches _ l _ h.2, SeqState.latches_withDl st h.1]
  case fixRead l e => simp [LatchPair.setHi_latches _ l _ h.2, SeqState.latches_withDl st h.1]
  case dummyIdx l r => split <;> simp [LatchPair.setLo_latches _ l _ h, LatchPair.setHi_latches _ l _ h]
  case fetchAdl | zpIndex | vecLo => exact LatchPair.setLo_latches _ .ad _ h
  case fetchAdh | fetchAdhJmp | vecHi => exact LatchPair.setHi_latches _ .ad _ h
  case fetchZp => exact (LatchPair.setHi_latches _ .ad _ h).trans (LatchPair.setLo_latches _ .ad _ h)
  case fetchEal => exact LatchPair.setLo_latches _ .ea _ h
  case fetchEah | fetchEahJmp => exact LatchPair.setHi_latches _ .ea _ h
  all_goals rfl

end

/-- A run leaves every latch that none of the queue's operations writes as it was. -/
theorem finish_latches {p : Params} {g : LatchGroup} (n : Nat) {st st' : SeqState}
    (hg : ∀ op ∈ st.q, g ∉ op.writes) (h : finish p n st = .ok st') : st'.latches g = st.latches g := by
  induction n generalizing st with
  | zero => cases h; rfl
  | succ n ih =>
    obtain rfl | ⟨op, rest, st1, hq, -, hrun, hfin⟩ := finish_succ_cases h
    · rfl
    · rw [hq] at hg
      have hrest : ∀ o ∈ st1.q, o ∈ rest := by
        obtain ⟨hq1, -⟩ := runOp_frame hrun
        rcases hq1 with hq1 | hq1 | hq1 <;> rw [hq1]
        · exact fun _ => id
        · exact fun _ => List.mem_of_mem_drop
        · nofun
      have hop : st1.latches g = st.latches g := by
        have hw := hg op List.mem_cons_self
        obtain ⟨d, rfl⟩ | ⟨a, v, rfl⟩ := runOp_cases hrun
        · exact MicroOp.effect_latches _ _ d hw
        · exact MicroOp.effect_latches _ _ v hw
      exact (ih (fun o ho => hg o (List.mem_cons_of_mem _ (hrest o ho))) hfin).trans hop

/-- The latches the operations of an instruction's sequence write (R173). -/
def writtenLatches (i : Instr) : List LatchGroup := ((rowSequence i.row).getD []).flatMap MicroOp.writes

/-- An instruction leaves every latch that its sequence does not write as it was. -/
theorem exec_latches {i : Instr} {s t : State} {g : LatchGroup} (hg : g ∉ writtenLatches i) (h : exec i s = .next t) :
    t.seq.latches g = s.seq.latches g := by
  obtain ⟨ops, hrow, he⟩ := exec_eq_rowSequence i s
  rw [he] at h
  obtain ⟨st, hrun, rfl⟩ := ofSeq_next h
  rw [writtenLatches, hrow, Option.getD_some, List.mem_flatMap] at hg
  exact finish_latches (st := { s.seq with q := ops }) _ (fun op ho hw => hg ⟨op, ho, hw⟩) hrun

/-- `EAL` and `EAH` are written by the pointer formats and the indirect `JMP` alone (R195 to R201). -/
theorem ea_notMem_writtenLatches (i : Instr) (hx : i.format ≠ .izx) (hy : i.format ≠ .izy) (hi : i.format ≠ .ind) :
    some .ea ∉ writtenLatches i := by
  revert hx hy hi
  cases i <;> decide

/-- `ADL` and `ADH` are written by the formats with an address and by `BRK`'s vector fetch alone. -/
theorem ad_notMem_writtenLatches (i : Instr)
    (hf : i.format = .imp ∨ i.format = .acc ∨ i.format = .imm ∨ i.format = .rel) (hc : i.cls ≠ .brk) :
    some .ad ∉ writtenLatches i := by
  revert hf hc
  cases i <;> decide

/-- `DL` is written by no instruction of the classes that read no operand byte into it (R176 to R179). -/
theorem dl_notMem_writtenLatches (i : Instr)
    (hc : i.cls ∈ [AccessClass.imp, .acc, .unk, .push, .jmp, .jmpind, .jsr, .brk, .write]) :
    none ∉ writtenLatches i := by
  revert hc
  cases i <;> decide

/-- Settles O48: each group of latches, by the instructions whose sequence does not write it. -/
theorem latchFrame : Obligations.LatchFrame := by
  intro s t i _ h
  refine ⟨fun hx hy hi => ?_, fun hf hc => ?_, fun hc => ?_⟩
  · simpa [SeqState.latches, LatchGroup.pick, and_comm] using exec_latches (ea_notMem_writtenLatches i hx hy hi) h
  · simpa [SeqState.latches, LatchGroup.pick, and_comm] using exec_latches (ad_notMem_writtenLatches i hf hc) h
  · simpa [SeqState.latches, LatchGroup.pick] using exec_latches (dl_notMem_writtenLatches i hc) h

/-! ### Two machines that differ in latches -/

theorem sameButLatches_iff {a b : SeqState} : SameButLatches a b ↔
    ∃ adl adh eal eah dl, b = { a with adl := adl, adh := adh, eal := eal, eah := eah, dl := dl } := by
  constructor
  · exact fun h => ⟨_, _, _, _, _, h⟩
  · rintro ⟨adl, adh, eal, eah, dl, rfl⟩
    rfl

/-- What a read-modify-write of the byte `m` at `x` leaves of the state its operand fetch leaves (R179): the second store
is computed from the first's state. -/
def SeqState.rmwEnd (mode : DecimalMode) (e : RmwFn) (x : Addr) (m : Byte) (st : SeqState) : SeqState :=
  let st1 := st.poke x m
  let o := e.apply mode m (st1.poke x (e.apply mode m st1).v)
  { o.st with dl := o.v }

namespace SameButLatches

theorem symm {a b : SeqState} (h : SameButLatches a b) : SameButLatches b a := by
  obtain ⟨adl, adh, eal, eah, dl, rfl⟩ := sameButLatches_iff.mp h
  rfl

theorem trans {a b c : SeqState} (h : SameButLatches a b) (h' : SameButLatches b c) : SameButLatches a c := by
  obtain ⟨adl, adh, eal, eah, dl, rfl⟩ := sameButLatches_iff.mp h
  obtain ⟨adl', adh', eal', eah', dl', rfl⟩ := sameButLatches_iff.mp h'
  rfl

/-- What takes the latches along keeps the relation. -/
theorem map {a b : SeqState} {f : SeqState → SeqState}
    (hf : ∀ st adl adh eal eah dl, SameButLatches (f st)
      (f { st with adl := adl, adh := adh, eal := eal, eah := eah, dl := dl }))
    (h : SameButLatches a b) : SameButLatches (f a) (f b) := by
  obtain ⟨adl, adh, eal, eah, dl, rfl⟩ := sameButLatches_iff.mp h
  exact hf ..

theorem rmwEnd {a b : SeqState} (h : SameButLatches a b) (mode : DecimalMode) (e : RmwFn) (x : Addr) (m : Byte) :
    SameButLatches (a.rmwEnd mode e x m) (b.rmwEnd mode e x m) :=
  h.map (f := (·.rmwEnd mode e x m)) fun _ _ _ _ _ _ => by cases e <;> rfl

theorem read {a b : SeqState} (h : SameButLatches a b) (mode : DecimalMode) (e : ReadFn) (m : Byte) :
    SameButLatches (e.apply mode m a) (e.apply mode m b) := by
  refine h.map fun st _ _ _ _ _ => ?_
  cases e
  case arr =>
    show SameButLatches (if decimalOn mode st.p then _ else _) (if decimalOn mode st.p then _ else _)
    split <;> rfl
  all_goals rfl

theorem poke {a b : SeqState} (h : SameButLatches a b) (x : Addr) (v : Byte) :
    SameButLatches (a.poke x v) (b.poke x v) := h.map (f := (·.poke x v)) fun _ _ _ _ _ _ => rfl

theorem peek {a b : SeqState} (h : SameButLatches a b) (x : Addr) : b.peek x = a.peek x := by
  rw [h]; rfl

theorem operandAddr {a b : SeqState} (h : SameButLatches a b) (f : Format) :
    operandAddr f b = operandAddr f a := by
  rw [h]; cases f <;> rfl

theorem storeValue {a b : SeqState} (h : SameButLatches a b) (e : StoreFn) : e.value b = e.value a := by
  rw [h]; exact e.value_congr a rfl rfl rfl

theorem start {a b : SeqState} (h : SameButLatches a b) (p : Params) : b.start p = a.start p := by
  rw [h]; rfl

end SameButLatches

/-- Before the cycle latches are read by the free tail alone, which finds those it reads the same (R172). -/
theorem LatchAlike.ready {a b : SeqState} (h : LatchAlike a b) :
    SameButLatches a.ready b.ready ∧ (a.ready.q = [] ∨ a.ready.q = resetSequence) := by
  obtain ⟨hsame, hq⟩ := h
  have hqb : b.q = a.q := by rw [hsame]
  have hsample : SameButLatches a.sampleNmi b.sampleNmi :=
    hsame.map (f := SeqState.sampleNmi) fun _ _ _ _ _ _ => rfl
  obtain hq | hq | ⟨hq, hadl, hadh⟩ := hq
  · rw [SeqState.ready_nil hq, SeqState.ready_nil (hqb.trans hq)]
    exact ⟨hsample, .inl hq⟩
  · rw [SeqState.ready_cons hq rfl, SeqState.ready_cons (hqb.trans hq) rfl]
    exact ⟨hsample, .inr hq⟩
  · rw [SeqState.ready_setPcAd hq, SeqState.ready_setPcAd (hqb.trans hq), hadl, hadh]
    exact ⟨hsample.map (f := fun st => { st with pc := cat a.adh a.adl, q := [] }) fun _ _ _ _ _ _ => rfl, .inl rfl⟩

/-- Fetching an operand moves `PC` on, empties the queue, and otherwise changes latches alone. -/
theorem Arrived.sameButLatches {n : Addr} {st st' : SeqState} (h : Arrived n st st') :
    SameButLatches { st with pc := st.pc + n, q := [] } st' := by
  cases st'
  obtain ⟨rfl, rfl, rfl, rfl, rfl, rfl, rfl, rfl, rfl, rfl, rfl, rfl, rfl⟩ := h
  rfl

theorem Arrived.alike {n : Addr} {a b a' b' : SeqState} (h : SameButLatches a b) (ha : Arrived n a a')
    (hb : Arrived n b b') : SameButLatches a' b' :=
  (ha.sameButLatches.symm.trans
    (h.map (f := fun st => { st with pc := st.pc + n, q := [] }) fun _ _ _ _ _ _ => rfl)).trans hb.sameButLatches

/-- The sequence's outcome rests on no latch it finds: two machines that differ in latches alone run it to two that no
later cycle tells apart (R229). -/
def ForgetsLatches (p : Params) (ops : List MicroOp) : Prop :=
  ∀ a b, SameButLatches a b →
    ∃ a' b', runSequence p ops a = .ok a' ∧ runSequence p ops b = .ok b' ∧ LatchAlike a' b'

/-- A sequence whose run is one function of the state, which takes the latches along or writes them from elsewhere. -/
theorem ForgetsLatches.of_run {p : Params} {ops : List MicroOp} {f : SeqState → SeqState}
    (hrun : ∀ st, runSequence p ops st = .ok (f st))
    (hf : ∀ st adl adh eal eah dl, LatchAlike (f st)
      (f { st with adl := adl, adh := adh, eal := eal, eah := eah, dl := dl })) : ForgetsLatches p ops := by
  intro a b h
  obtain ⟨adl, adh, eal, eah, dl, rfl⟩ := sameButLatches_iff.mp h
  exact ⟨_, _, hrun _, hrun _, hf ..⟩

section
variable {p : Params} (hp : p.busSize = 65536)
include hp

theorem forgetsLatches_read {f : Format} {e : ReadFn} {ops : List MicroOp} (hs : readSequence f e = some ops) :
    ForgetsLatches p ops := by
  intro a b h
  obtain ⟨x, hx⟩ := operandAddr_isSome_of_read (Option.isSome_iff_exists.mpr ⟨_, hs⟩) a
  obtain ⟨a', ha, hruna⟩ := runSequence_read hp hs a hx
  obtain ⟨b', hb, hrunb⟩ := runSequence_read hp hs b ((h.operandAddr f).trans hx)
  rw [h.peek] at hrunb
  exact ⟨_, _, hruna, hrunb, (ha.alike h hb).read .., .inl (by simp [ha.q])⟩

theorem forgetsLatches_write {f : Format} {e : StoreFn} {ops : List MicroOp} (hs : writeSequence f e = some ops) :
    ForgetsLatches p ops := by
  intro a b h
  obtain ⟨x, hx⟩ := operandAddr_isSome_of_write (Option.isSome_iff_exists.mpr ⟨_, hs⟩) a
  obtain ⟨a', ha, hruna⟩ := runSequence_write hp hs a hx
  obtain ⟨b', hb, hrunb⟩ := runSequence_write hp hs b ((h.operandAddr f).trans hx)
  rw [h.storeValue] at hrunb
  exact ⟨_, _, hruna, hrunb, (ha.alike h hb).poke .., .inl ha.q⟩

theorem forgetsLatches_rmw {f : Format} {e : RmwFn} {ops : List MicroOp} (hs : rmwSequence f e = some ops) :
    ForgetsLatches p ops := by
  intro a b h
  obtain ⟨x, hx⟩ := operandAddr_isSome_of_rmw (Option.isSome_iff_exists.mpr ⟨_, hs⟩) a
  obtain ⟨a', ha, hruna⟩ := runSequence_rmw hp hs a hx
  obtain ⟨b', hb, hrunb⟩ := runSequence_rmw hp hs b ((h.operandAddr f).trans hx)
  rw [h.peek] at hrunb
  exact ⟨_, _, hruna, hrunb, (ha.alike h hb).rmwEnd p.decimalMode e x (a.peek x), .inl (by simp [ha.q])⟩

/-- Every instruction's sequence but `BRK`'s ends with no queue, and so with no latch left to read; `BRK` has loaded the
vector into `ADH:ADL` by then. -/
theorem forgetsLatches_row {i : Instr} {ops : List MicroOp} (h : rowSequence i.row = some ops) :
    ForgetsLatches p ops := by
  cases rowKind i with
  | imp e h' =>
    cases h.symm.trans h'
    exact .of_run (runSequence_imp hp e) fun _ _ _ _ _ _ => ⟨by cases e <;> rfl, .inl (by simp)⟩
  | read e h' => exact forgetsLatches_read hp (h'.symm.trans h)
  | write e h' => exact forgetsLatches_write hp (h'.symm.trans h)
  | rmw e h' => exact forgetsLatches_rmw hp (h'.symm.trans h)
  | branch c h' =>
    cases h.symm.trans h'
    exact .of_run (runSequence_branch hp c) fun _ _ _ _ _ _ => ⟨by cases c <;> rfl, .inl rfl⟩
  | push v hv h' =>
    cases h.symm.trans h'
    exact .of_run (runSequence_push hp v · hv) fun _ _ _ _ _ _ => ⟨by cases v <;> rfl, .inl rfl⟩
  | pull l h' =>
    cases h.symm.trans h'
    exact .of_run (runSequence_pull hp l) fun _ _ _ _ _ _ => ⟨by cases l <;> rfl, .inl (by simp)⟩
  | fixed h' =>
    rcases h' with rfl | rfl | rfl | rfl | rfl | rfl <;> cases h
    · exact .of_run (runSequence_jmp hp) fun _ _ _ _ _ _ => ⟨rfl, .inl rfl⟩
    · exact .of_run (runSequence_jmpInd hp) fun _ _ _ _ _ _ => ⟨rfl, .inl rfl⟩
    · exact .of_run (runSequence_jsr hp) fun _ _ _ _ _ _ => ⟨rfl, .inl rfl⟩
    · exact .of_run (runSequence_rts hp) fun _ _ _ _ _ _ => ⟨rfl, .inl rfl⟩
    · exact .of_run (runSequence_rti hp) fun _ _ _ _ _ _ => ⟨rfl, .inl rfl⟩
    · exact .of_run (runSequence_brk hp) fun _ _ _ _ _ _ => ⟨rfl, .inr (.inr ⟨rfl, rfl, rfl⟩)⟩

theorem forgetsLatches_interrupt (v : Addr) : ForgetsLatches p (interruptSequence v) :=
  .of_run (runSequence_interrupt hp v) fun _ _ _ _ _ _ => ⟨rfl, .inr (.inr ⟨rfl, rfl, rfl⟩)⟩

theorem forgetsLatches_reset : ForgetsLatches p resetSequence :=
  .of_run (runSequence_reset hp) fun _ _ _ _ _ _ => ⟨rfl, .inr (.inr ⟨rfl, rfl, rfl⟩)⟩

end

theorem ForgetsLatches.runInstr {s : State} {ops : List MicroOp} (hf : ForgetsLatches s.params ops) {a b : SeqState}
    (h : SameButLatches a b) : ∃ t u, runInstr ops (s.setSeq a) = .next t ∧
      runInstr ops (s.setSeq b) = .next (t.setSeq u) ∧ LatchAlike t.seq u := by
  obtain ⟨a', b', ha, hb, halike⟩ := hf a b h
  refine ⟨s.setSeq a', b', ?_, ?_, halike⟩
  · rw [Machine.runInstr, State.setSeq_params, State.setSeq_seq, ha]
    rfl
  · rw [Machine.runInstr, State.setSeq_params, State.setSeq_seq, hb]
    rfl

theorem SeqState.q_ne_nil_of_inFlight {p : Params} {st : SeqState} (h : st.start p = .inFlight) : st.q ≠ [] := by
  intro hq
  simp only [SeqState.start, hq] at h
  split at h
  · cases h
  · cases h
  · split at h <;> cases h

/-- A whole sequence in flight is the run of that sequence. -/
theorem finishInFlight_eq_runInstr {s : State} {ops : List MicroOp} (h : s.seq.q = ops) :
    finishInFlight s = runInstr ops s := by
  subst h; rfl

/-- Settles O23: both machines start the same sequence, and each of the sequences forgets the latches it finds. -/
theorem latchesUnobservable : Obligations.LatchesUnobservable := by
  intro s st hb hh halike
  obtain ⟨hready, hq⟩ := halike.ready
  rw [step_eq_stepSeq hh, step_eq_stepSeq (s := s.setSeq st) hh]
  simp only [stepSeq, State.setSeq_seq, State.setSeq_params, hready.start]
  cases hs : s.seq.ready.start s.params with
  | interrupt v =>
    exact (forgetsLatches_interrupt hb v).runInstr (hready.map (f := SeqState.acknowledge) fun _ _ _ _ _ _ => rfl)
  | instruction i =>
    obtain ⟨ops, hrow, -⟩ := exec_eq_rowSequence i s
    simp only [exec_of_rowSequence hrow]
    exact (forgetsLatches_row hb hrow).runInstr hready
  | fault f => exact absurd hs (SeqState.start_ne_fault hb _ f)
  | inFlight =>
    have hreset := hq.resolve_left (SeqState.q_ne_nil_of_inFlight hs)
    rw [finishInFlight_eq_runInstr (ops := resetSequence) hreset,
      finishInFlight_eq_runInstr (ops := resetSequence) (by rw [hready]; exact hreset)]
    exact (forgetsLatches_reset hb).runInstr hready

end Sys2Proof.Machine

/-! PROOFS. Loads, stores and register transfers (42_load_store_transfer.md R230 to R241). -/

namespace Sys2Proof.Machine

/-- `setNZ` among the registers: `N` and `Z` of the byte, the rest kept (R32). -/
theorem SeqState.setNZ_regs (st : SeqState) (v : Byte) :
    (st.setNZ v).regs = { st.regs with p := withFlags st.p [(.n, v.msb), (.z, v == 0)] } := by
  rw [← setNZ_eq_withFlags]
  rfl

/-- Settles O25: each load's effect puts the byte into one register, then `N` and `Z` from it; it draws no free value. -/
theorem loadResults : Obligations.LoadResults := by
  intro s hb
  refine ⟨readsTo_of .lda ?_ hb (fun _ => rfl) fun m => SeqState.setNZ_regs (s.seq.setA m) m,
    readsTo_of .ldx ?_ hb (fun _ => rfl) fun m => SeqState.setNZ_regs (s.seq.setX m) m,
    readsTo_of .ldy ?_ hb (fun _ => rfl) fun m => SeqState.setNZ_regs (s.seq.setY m) m⟩
  all_goals decide

/-- Settles O26: each store's value is its register. -/
theorem storeResults : Obligations.StoreResults := by
  intro s hb
  refine ⟨storesTo_of .sta ?_ hb, storesTo_of .stx ?_ hb, storesTo_of .sty ?_ hb⟩
  all_goals decide

/-- Settles O27: five transfers put the source into the destination, then `N` and `Z` from it; `TXS` only moves it. -/
theorem transferResults : Obligations.TransferResults := by
  intro s hb
  refine ⟨registers_of .tax ?_ hb (SeqState.setNZ_regs (s.seq.setX s.seq.a) s.seq.a),
    registers_of .tay ?_ hb (SeqState.setNZ_regs (s.seq.setY s.seq.a) s.seq.a),
    registers_of .txa ?_ hb (SeqState.setNZ_regs (s.seq.setA s.seq.x) s.seq.x),
    registers_of .tya ?_ hb (SeqState.setNZ_regs (s.seq.setA s.seq.y) s.seq.y),
    registers_of .tsx ?_ hb (SeqState.setNZ_regs (s.seq.setX s.seq.s) s.seq.s),
    registers_of .txs ?_ hb rfl⟩
  all_goals decide

end Sys2Proof.Machine

/-! PROOFS. Arithmetic, logic, compare, increment and shift instructions (43_arithmetic_logic.md R260 to R282, R364). -/

namespace Sys2Proof.Machine

/-! ### `ADC` and `SBC` -/

/-- An addition that leaves `o` writes `A` and `P` alone among the registers. -/
theorem SeqState.setAdd_regs {out o : AddOut} (h : out = o) (st : SeqState) :
    (st.setAdd out).regs = { st.regs with a := o.a, p := o.p } := by
  subst h
  rfl

/-- `AddBinary` in exact integers (R260). -/
theorem addBinary_eq (p a m : Byte) (c : Bool) :
    addBinary p a m c =
      { a := BitVec.ofNat 8 (a.toNat + m.toNat + bit c)
        p := withFlags p
          [(.n, (BitVec.ofNat 8 (a.toNat + m.toNat + bit c) : Byte).msb),
           (.v, decide (a.toInt + m.toInt + bit c < -128 ∨ 127 < a.toInt + m.toInt + bit c)),
           (.z, (BitVec.ofNat 8 (a.toNat + m.toNat + bit c) : Byte) == 0),
           (.c, decide (255 < a.toNat + m.toNat + bit c))] } :=
  congrArg (AddOut.mk _) (addBinary_p p a m c)

/-- `AddBinary` of the complement, a subtraction in exact integers (R264, R282). -/
theorem subBinary_eq (p a m : Byte) (c : Bool) :
    addBinary p a (m ^^^ 0xFF) c =
      { a := BitVec.ofInt 8 ((a.toNat : Int) - m.toNat - (1 - bit c))
        p := withFlags p
          [(.n, (BitVec.ofInt 8 ((a.toNat : Int) - m.toNat - (1 - bit c)) : Byte).msb),
           (.v, decide (a.toInt - m.toInt - (1 - bit c) < -128 ∨ 127 < a.toInt - m.toInt - (1 - bit c))),
           (.z, (BitVec.ofInt 8 ((a.toNat : Int) - m.toNat - (1 - bit c)) : Byte) == 0),
           (.c, decide (0 ≤ (a.toNat : Int) - m.toNat - (1 - bit c)))] } :=
  congrArg₂ AddOut.mk (subBinary_a p a m c) (subBinary_p p a m c)

theorem adcOut_of_binary {mode : DecimalMode} {p : Byte} (h : mode = .binaryOnly ∨ getFlag p .d = false) (a m : Byte) :
    adcOut mode p a m = addBinary p a m (getFlag p .c) := by
  rw [adcOut, decimalOn_of_binary h, if_neg Bool.false_ne_true]

theorem adcOut_of_decimal {mode : DecimalMode} {p : Byte} (h : mode = .nmos) (hd : getFlag p .d = true) (a m : Byte) :
    adcOut mode p a m = addDecimal p a m (getFlag p .c) := by
  rw [adcOut, decimalOn_of_decimal h hd, if_pos rfl]

theorem sbcOut_of_binary {mode : DecimalMode} {p : Byte} (h : mode = .binaryOnly ∨ getFlag p .d = false) (a m : Byte) :
    sbcOut mode p a m = addBinary p a (m ^^^ 0xFF) (getFlag p .c) := by
  rw [sbcOut, decimalOn_of_binary h, if_neg Bool.false_ne_true]

theorem sbcOut_of_decimal {mode : DecimalMode} {p : Byte} (h : mode = .nmos) (hd : getFlag p .d = true) (a m : Byte) :
    sbcOut mode p a m = subDecimal p a m (getFlag p .c) := by
  rw [sbcOut, decimalOn_of_decimal h hd, if_pos rfl]

/-- Settles O28: `ADC` writes `A` and `P` from the addition its mode selects; the binary one in exact integers. -/
theorem adcResults : Obligations.AdcResults := by
  intro s hb
  refine ⟨fun hmode => readsTo_of .adc ?_ hb (fun _ => rfl) fun m =>
      SeqState.setAdd_regs ((adcOut_of_binary hmode s.seq.a m).trans (addBinary_eq ..)) s.seq,
    fun hmode hd => readsTo_of .adc ?_ hb (fun _ => rfl) fun m =>
      SeqState.setAdd_regs (adcOut_of_decimal hmode hd s.seq.a m) s.seq⟩
  all_goals decide

/-- Settles O29: `SBC` and 0xEB write `A` and `P` from the subtraction their mode selects; the binary one in exact
integers. -/
theorem sbcResults : Obligations.SbcResults := by
  intro s hb
  refine ⟨fun hmode => readsTo_of .sbc ?_ hb (fun _ => rfl) fun m =>
      SeqState.setAdd_regs ((sbcOut_of_binary hmode s.seq.a m).trans (subBinary_eq ..)) s.seq,
    fun hmode hd => readsTo_of .sbc ?_ hb (fun _ => rfl) fun m =>
      SeqState.setAdd_regs (sbcOut_of_decimal hmode hd s.seq.a m) s.seq⟩
  all_goals decide

/-! ### The decimal algorithms, digit by digit -/

/-- The low digit of a decimal sum, `0x10` standing for its carry (R261, the two lines on `al`). -/
def unitsCarried (u : Nat) : Nat := if 10 ≤ u then (u + 6) % 16 + 16 else u

/-- The low digit of a decimal difference, `-0x10` standing for its borrow (R262, the two lines on `al`). -/
def unitsBorrowed (u : Int) : Int := if u < 0 then (u - 6) % 16 - 16 else u

/-- A decimal sum before its high digit is corrected (R261). -/
def decimalSum (a m : Byte) (c : Bool) : Nat :=
  16 * (a.toNat / 16) + 16 * (m.toNat / 16) + unitsCarried (a.toNat % 16 + m.toNat % 16 + bit c)

/-- The same with the high digits read as signed, for `V` (R261). -/
def decimalSigned (a m : Byte) (c : Bool) : Int :=
  (a &&& 0xF0).toInt + (m &&& 0xF0).toInt + unitsCarried (a.toNat % 16 + m.toNat % 16 + bit c)

/-- A decimal difference before its high digit is corrected (R262). -/
def decimalDiff (a m : Byte) (c : Bool) : Int :=
  16 * (a.toNat / 16 : Nat) - 16 * (m.toNat / 16 : Nat) +
    unitsBorrowed ((a.toNat % 16 : Nat) - (m.toNat % 16 : Nat) - (1 - bit c))

/-- The high digit of a decimal sum, corrected (R261). -/
def tensCarried (r : Nat) : Nat := if 0xA0 ≤ r then r + 0x60 else r

/-- The high digit of a decimal difference, corrected (R262). -/
def tensBorrowed (r : Int) : Int := if r < 0 then r - 0x60 else r

/-- `C` is read off the corrected sum, which passes a byte exactly when it was corrected (R261). -/
theorem le_tensCarried_iff (r : Nat) : 0x100 ≤ tensCarried r ↔ 0xA0 ≤ r := by
  unfold tensCarried
  split <;> omega

/-- `AddDecimal`, the flags in the order R261 writes them. -/
theorem addDecimal_eq_in_rule_order (p a m : Byte) (c : Bool) : addDecimal p a m c =
    { a := BitVec.ofNat 8 (tensCarried (decimalSum a m c))
      p := withFlags p [(.z, decide ((a.toNat + m.toNat + bit c) % 256 = 0)), (.n, (decimalSum a m c).testBit 7),
        (.v, decide (decimalSigned a m c < -128 ∨ 127 < decimalSigned a m c)),
        (.c, decide (0x100 ≤ tensCarried (decimalSum a m c)))] } := by
  simp only [decimalSum, ← high_nibble]
  rfl

/-- `AddDecimal`, result and flags (R261). -/
theorem addDecimal_eq (p a m : Byte) (c : Bool) : addDecimal p a m c =
    { a := BitVec.ofNat 8 (tensCarried (decimalSum a m c))
      p := withFlags p [(.n, (decimalSum a m c).testBit 7),
        (.v, decide (decimalSigned a m c < -128 ∨ 127 < decimalSigned a m c)),
        (.z, decide ((a.toNat + m.toNat + bit c) % 256 = 0)), (.c, decide (0xA0 ≤ decimalSum a m c))] } := by
  rw [addDecimal_eq_in_rule_order]
  simp only [le_tensCarried_iff]
  refine congrArg (AddOut.mk _) (status_ext fun g => ?_)
  simp only [getFlag_withFlags]
  cases g <;> rfl

/-- `SubDecimal`: the decimal difference, with the flags of the binary subtraction (R262). -/
theorem subDecimal_eq (p a m : Byte) (c : Bool) : subDecimal p a m c =
    { a := BitVec.ofInt 8 (tensBorrowed (decimalDiff a m c)), p := (addBinary p a (m ^^^ 0xFF) c).p } := by
  have hunits : ((a.toNat % 16 : Nat) : Int) - (m.toNat % 16 : Nat) - (1 - bit c) =
      (a.toNat % 16 : Nat) - (m.toNat % 16 : Nat) + (bit c : Nat) - 1 := by omega
  have hhigh (v : Byte) : 16 * ((v.toNat / 16 : Nat) : Int) = (v &&& 0xF0).toNat := by
    rw [high_nibble, Nat.cast_mul, Nat.cast_ofNat]
  rw [decimalDiff, hunits, hhigh, hhigh]
  rfl

/-! ### The decimal algorithms on valid operands -/

/-- The number two decimal digits stand for. -/
def bcdValue (v : Byte) : Nat := 10 * (v.toNat / 16) + v.toNat % 16

/-- Both digits are decimal. -/
def ValidBcd (v : Byte) : Prop := v.toNat / 16 ≤ 9 ∧ v.toNat % 16 ≤ 9

/-- Two decimal digits of `n`, its hundreds in the bits past a byte: what both algorithms leave before the reduction. -/
def packedBcd (n : Int) : Int := 256 * (n / 100) + 16 * (n / 10 % 10) + n % 10

theorem ofInt_packedBcd_toNat (n : Int) :
    ((BitVec.ofInt 8 (packedBcd n) : Byte).toNat : Int) = 16 * (n / 10 % 10) + n % 10 := by
  rw [BitVec.toNat_ofInt, packedBcd]
  omega

theorem validBcd_ofInt_packedBcd (n : Int) : ValidBcd (BitVec.ofInt 8 (packedBcd n)) := by
  have h := ofInt_packedBcd_toNat n
  constructor <;> omega

theorem bcdValue_ofInt_packedBcd (n : Int) : (bcdValue (BitVec.ofInt 8 (packedBcd n)) : Int) = n % 100 := by
  have h := ofInt_packedBcd_toNat n
  rw [bcdValue]
  omega

/-- A sum of two digits and a carry, as a digit and a carry. -/
theorem unitsCarried_eq {u : Nat} (h : u ≤ 19) : unitsCarried u = 16 * (u / 10) + u % 10 := by
  unfold unitsCarried
  split <;> omega

/-- A difference of two digits and a borrow, as a digit and a borrow. -/
theorem unitsBorrowed_eq {u : Int} (h : -10 ≤ u) (h' : u ≤ 9) : unitsBorrowed u = 16 * (u / 10) + u % 10 := by
  unfold unitsBorrowed
  split <;> omega

theorem decimalSum_eq_of_valid {a m : Byte} (c : Bool) (ha : ValidBcd a) (hm : ValidBcd m) :
    decimalSum a m c = 16 * ((bcdValue a + bcdValue m + bit c) / 10) + (bcdValue a + bcdValue m + bit c) % 10 := by
  obtain ⟨-, ha⟩ := ha
  obtain ⟨-, hm⟩ := hm
  have hc := bit_le_one c
  rw [decimalSum, unitsCarried_eq (by omega), bcdValue, bcdValue]
  omega

theorem decimalDiff_eq_of_valid {a m : Byte} (c : Bool) (ha : ValidBcd a) (hm : ValidBcd m) :
    decimalDiff a m c = 16 * (((bcdValue a : Int) - bcdValue m - (1 - bit c)) / 10) +
      ((bcdValue a : Int) - bcdValue m - (1 - bit c)) % 10 := by
  obtain ⟨-, ha⟩ := ha
  obtain ⟨-, hm⟩ := hm
  have hc := bit_le_one c
  rw [decimalDiff, unitsBorrowed_eq (by omega) (by omega), bcdValue, bcdValue]
  omega

/-- Adding `0x60` moves ten tens to one hundred. -/
theorem tensCarried_eq_packedBcd {n : Nat} (h : n ≤ 199) :
    (tensCarried (16 * (n / 10) + n % 10) : Int) = packedBcd n := by
  unfold tensCarried packedBcd
  split <;> omega

/-- Subtracting `0x60` borrows one hundred as ten tens. -/
theorem tensBorrowed_eq_packedBcd {n : Int} (h : -100 ≤ n) (h' : n ≤ 99) :
    tensBorrowed (16 * (n / 10) + n % 10) = packedBcd n := by
  unfold tensBorrowed packedBcd
  split <;> omega

theorem bcdValue_le {v : Byte} (h : ValidBcd v) : bcdValue v ≤ 99 := by
  obtain ⟨hh, hl⟩ := h
  unfold bcdValue
  omega

theorem addDecimal_a_of_valid (p : Byte) {a m : Byte} (c : Bool) (ha : ValidBcd a) (hm : ValidBcd m) :
    (addDecimal p a m c).a = BitVec.ofInt 8 (packedBcd (bcdValue a + bcdValue m + bit c : Nat)) := by
  have ha' := bcdValue_le ha
  have hm' := bcdValue_le hm
  have hc := bit_le_one c
  rw [← tensCarried_eq_packedBcd (by omega), ← decimalSum_eq_of_valid c ha hm, BitVec.ofInt_natCast, addDecimal_eq]

theorem subDecimal_a_of_valid (p : Byte) {a m : Byte} (c : Bool) (ha : ValidBcd a) (hm : ValidBcd m) :
    (subDecimal p a m c).a = BitVec.ofInt 8 (packedBcd ((bcdValue a : Int) - bcdValue m - (1 - bit c))) := by
  have ha' := bcdValue_le ha
  have hm' := bcdValue_le hm
  have hc := bit_le_one c
  rw [← tensBorrowed_eq_packedBcd (by omega) (by omega), ← decimalDiff_eq_of_valid c ha hm, subDecimal_eq]

/-- `C` of a decimal addition is the decimal carry. -/
theorem addDecimal_carry_of_valid (p : Byte) {a m : Byte} (c : Bool) (ha : ValidBcd a) (hm : ValidBcd m) :
    getFlag (addDecimal p a m c).p .c = decide (100 ≤ bcdValue a + bcdValue m + bit c) := by
  rw [addDecimal_eq, decimalSum_eq_of_valid c ha hm, getFlag_withFlags]
  refine decide_eq_decide.mpr ?_
  omega

/-- `C` of a decimal subtraction is that no decimal borrow came out: on valid operands the bytes compare as the numbers
they stand for. -/
theorem subDecimal_carry_of_valid (p : Byte) {a m : Byte} (c : Bool) (ha : ValidBcd a) (hm : ValidBcd m) :
    getFlag (subDecimal p a m c).p .c = decide (bcdValue m + (1 - bit c) ≤ bcdValue a) := by
  obtain ⟨-, ha⟩ := ha
  obtain ⟨-, hm⟩ := hm
  have hc := bit_le_one c
  rw [subDecimal_eq, subBinary_p, getFlag_withFlags, bcdValue, bcdValue]
  refine decide_eq_decide.mpr ?_
  omega

/-- Settles O30: both algorithms digit by digit, then their value on valid operands through the packed digits. -/
theorem decimalDigits : Obligations.DecimalDigits := by
  intro p a m c
  refine ⟨addDecimal_eq p a m c, subDecimal_eq p a m c, fun ha hm =>
    ⟨?_, ?_, addDecimal_carry_of_valid p c ha hm, ?_, ?_, subDecimal_carry_of_valid p c ha hm⟩⟩
  · rw [addDecimal_a_of_valid p c ha hm]
    exact validBcd_ofInt_packedBcd _
  · rw [addDecimal_a_of_valid p c ha hm]
    exact Int.ofNat_inj.mp (bcdValue_ofInt_packedBcd _)
  · rw [subDecimal_a_of_valid p c ha hm]
    exact validBcd_ofInt_packedBcd _
  · rw [subDecimal_a_of_valid p c ha hm]
    exact bcdValue_ofInt_packedBcd _

/-! ### Logic and compare -/

/-- The flags of `BIT` as a list (R268). -/
theorem bitTest_eq_withFlags (p a m : Byte) :
    bitTest p a m = withFlags p [(.n, m.getLsbD 7), (.v, m.getLsbD 6), (.z, a &&& m == 0)] := by
  apply status_ext
  intro g
  simp only [bitTest, getFlag_withFlags, getFlag_setFlag]
  cases g <;> rfl

/-- An effect that only writes `P` changes no other register. -/
theorem SeqState.setP_regs {out p : Byte} (h : out = p) (st : SeqState) : (st.setP out).regs = { st.regs with p := p } := by
  subst h
  rfl

/-- Settles O31: the three operations put their result into `A`, then `N` and `Z` from it; `BIT` writes `P` alone. -/
theorem logicResults : Obligations.LogicResults := by
  intro s hb
  refine ⟨readsTo_of .and ?_ hb (fun _ => rfl) fun m => SeqState.setNZ_regs (s.seq.setA (s.seq.a &&& m)) (s.seq.a &&& m),
    readsTo_of .ora ?_ hb (fun _ => rfl) fun m => SeqState.setNZ_regs (s.seq.setA (s.seq.a ||| m)) (s.seq.a ||| m),
    readsTo_of .eor ?_ hb (fun _ => rfl) fun m => SeqState.setNZ_regs (s.seq.setA (s.seq.a ^^^ m)) (s.seq.a ^^^ m),
    readsTo_of .bit ?_ hb (fun _ => rfl) fun m => SeqState.setP_regs (bitTest_eq_withFlags s.seq.p s.seq.a m) s.seq⟩
  all_goals decide

/-- Settles O32: the three comparisons write `P` alone, by `Compare` of their register. -/
theorem compareResults : Obligations.CompareResults := by
  intro s hb
  refine ⟨readsTo_of .cmp ?_ hb (fun _ => rfl) fun m => SeqState.setP_regs (compareP_eq_withFlags _ s.seq.a m) s.seq,
    readsTo_of .cpx ?_ hb (fun _ => rfl) fun m => SeqState.setP_regs (compareP_eq_withFlags _ s.seq.x m) s.seq,
    readsTo_of .cpy ?_ hb (fun _ => rfl) fun m => SeqState.setP_regs (compareP_eq_withFlags _ s.seq.y m) s.seq⟩
  all_goals decide

/-! ### Increments, decrements and shifts -/

/-- What a shift of a byte of memory leaves among the registers: `C`, then `N` and `Z` from the result (R278 to R281). -/
theorem SeqState.shift_regs (st : SeqState) (o : ShiftOut) :
    ((st.setFlag .c o.c).setNZ o.w).regs =
      { st.regs with p := withFlags st.p [(.c, o.c), (.n, o.w.msb), (.z, o.w == 0)] } :=
  SeqState.setNZ_regs (st.setFlag .c o.c) o.w

/-- Settles O33: every result gives `N` and `Z`; the shifts write `C` first. -/
theorem memoryModifyResults : Obligations.MemoryModifyResults := by
  intro s hb
  refine ⟨modifies_of .inc ?_ hb (fun _ => rfl) fun m => s.seq.setNZ_regs (m + 1),
    modifies_of .dec ?_ hb (fun _ => rfl) fun m => s.seq.setNZ_regs (m - 1),
    modifies_of .asl ?_ hb (fun _ => rfl) fun m => s.seq.shift_regs (aslF m),
    modifies_of .lsr ?_ hb (fun _ => rfl) fun m => s.seq.shift_regs (lsrF m),
    modifies_of .rol ?_ hb (fun _ => rfl) fun m => s.seq.shift_regs (rolF m (s.seq.flag .c)),
    modifies_of .ror ?_ hb (fun _ => rfl) fun m => s.seq.shift_regs (rorF m (s.seq.flag .c))⟩
  all_goals decide

/-- What a shift of `A` leaves: `C`, then the result in `A`, then `N` and `Z` from it (R278 to R281). -/
theorem SeqState.shiftA_regs (st : SeqState) (o : ShiftOut) :
    (((st.setFlag .c o.c).setA o.w).setNZ o.w).regs =
      { st.regs with a := o.w, p := withFlags st.p [(.c, o.c), (.n, o.w.msb), (.z, o.w == 0)] } :=
  SeqState.setNZ_regs ((st.setFlag .c o.c).setA o.w) o.w

/-- Settles O34: each puts its result into its register, then `N` and `Z` from it; the shifts of `A` write `C` first. -/
theorem registerModifyResults : Obligations.RegisterModifyResults := by
  intro s hb
  refine ⟨registers_of .inx ?_ hb (SeqState.setNZ_regs (s.seq.setX (s.seq.x + 1)) (s.seq.x + 1)),
    registers_of .iny ?_ hb (SeqState.setNZ_regs (s.seq.setY (s.seq.y + 1)) (s.seq.y + 1)),
    registers_of .dex ?_ hb (SeqState.setNZ_regs (s.seq.setX (s.seq.x - 1)) (s.seq.x - 1)),
    registers_of .dey ?_ hb (SeqState.setNZ_regs (s.seq.setY (s.seq.y - 1)) (s.seq.y - 1)),
    registers_of .aslA ?_ hb (s.seq.shiftA_regs (aslF s.seq.a)),
    registers_of .lsrA ?_ hb (s.seq.shiftA_regs (lsrF s.seq.a)),
    registers_of .rolA ?_ hb (s.seq.shiftA_regs (rolF s.seq.a (s.seq.flag .c))),
    registers_of .rorA ?_ hb (s.seq.shiftA_regs (rorF s.seq.a (s.seq.flag .c)))⟩
  all_goals decide

end Sys2Proof.Machine

/-! PROOFS. Control transfer, stack and flag instructions, the no-ops, and the return from an interrupt
(44_control_stack_flags.md R300 to R327; 45_undocumented.md R365 to R368; 60_exceptions.md R414 to R417). -/

namespace Sys2Proof.Machine

/-! ### Branches and jumps -/

/-- A branch on "flag `f` is `b`" completes at its target where the flag has the value, at the next instruction where it
has not (R202, R308). -/
theorem completes_branch {s : State} (hb : FullBus s) {i : Instr} {c : Cond} {f : Flag} {b : Bool}
    (hrow : rowSequence i.row = some (seqBranch c)) (hc : c.holds s.seq = flagIs s.seq.p f b) :
    Completes i s
      { s.seq.regs with pc := if getFlag s.seq.p f = b then s.seq.branchTarget else s.seq.pc + 2 } [] := by
  have hrun := runSequence_branch hb c s.seq
  simp only [hc, flagIs, beq_iff_eq] at hrun
  exact completes_of hrow hrun rfl (fun _ => rfl) rfl ⟨rfl, rfl, rfl, rfl, rfl⟩

/-- Settles O35: each of the eight conditions is the test of its flag. -/
theorem branchResults : Obligations.BranchResults := by
  intro s hb r d target
  have htarget : target = s.seq.branchTarget := by rw [SeqState.branchTarget, sext16_eq]; rfl
  rw [htarget]
  simp only [List.forall_mem_cons, List.not_mem_nil, false_implies, implies_true, and_true]
  exact ⟨⟨⟨rfl, rfl, rfl⟩, completes_branch (c := .bpl) hb rfl rfl⟩,
    ⟨⟨rfl, rfl, rfl⟩, completes_branch (c := .bmi) hb rfl rfl⟩,
    ⟨⟨rfl, rfl, rfl⟩, completes_branch (c := .bvc) hb rfl rfl⟩,
    ⟨⟨rfl, rfl, rfl⟩, completes_branch (c := .bvs) hb rfl rfl⟩,
    ⟨⟨rfl, rfl, rfl⟩, completes_branch (c := .bcc) hb rfl rfl⟩,
    ⟨⟨rfl, rfl, rfl⟩, completes_branch (c := .bcs) hb rfl rfl⟩,
    ⟨⟨rfl, rfl, rfl⟩, completes_branch (c := .bne) hb rfl rfl⟩,
    ⟨⟨rfl, rfl, rfl⟩, completes_branch (c := .beq) hb rfl rfl⟩⟩

/-- The two pushes of a return address (R205, R208, R414): `PCH`, then `PCL`. -/
def SeqState.pushReturn (st : SeqState) (ret : Addr) : SeqState :=
  (st.poke (stackAddr st.s) (hiByte ret)).poke (stackAddr (st.s - 1)) (loByte ret)

/-- The stores of `JSR`: the address of its last byte, high byte first (R311). -/
def SeqState.callStores (st : SeqState) : List (Addr × Byte) :=
  [(stackAddr st.s, hiByte (st.pc + 2)), (stackAddr (st.s - 1), loByte (st.pc + 2))]

theorem SeqState.peek_pushReturn (st : SeqState) (b : Addr) :
    (st.pushReturn (st.pc + 2)).peek b = st.peekAfter st.callStores b := by
  simp only [SeqState.pushReturn, SeqState.peek_poke, SeqState.callStores, SeqState.peekAfter, List.foldl]

/-- What `JSR` leaves; the third byte is read after the pushes (R205, R311). -/
def SeqState.called (st : SeqState) : SeqState :=
  let st1 := st.pushReturn (st.pc + 2)
  { st with
    mem := st1.mem
    adl := st.operand1
    adh := st1.peek (st.pc + 2)
    s := st.s - 2
    pc := cat (st1.peek (st.pc + 2)) st.operand1
    q := [] }

theorem exec_jsr {s : State} (hb : FullBus s) : exec .jsr s = .next (s.setSeq s.seq.called) :=
  exec_next rfl (by rw [runSequence_jsr hb, byte_sub_two]; simp [SeqState.called, SeqState.pushReturn])

theorem completes_jsr {s : State} (hb : FullBus s) :
    Completes .jsr s
      { s.seq.regs with
        s := s.seq.s - 2
        pc := cat (s.seq.peekAfter s.seq.callStores (s.seq.pc + 2)) s.seq.operand1 } s.seq.callStores := by
  refine ⟨_, exec_jsr hb, ?_, s.seq.peek_pushReturn, rfl, rfl, rfl, rfl, rfl, rfl, rfl, rfl, rfl⟩
  rw [← SeqState.peek_pushReturn]
  rfl

theorem completes_rts {s : State} (hb : FullBus s) :
    Completes .rts s
      { s.seq.regs with
        s := s.seq.s + 2
        pc := cat (s.seq.peek (stackAddr (s.seq.s + 2))) (s.seq.peek (stackAddr (s.seq.s + 1))) + 1 } [] := by
  have hrun := runSequence_rts hb s.seq
  rw [byte_add_two] at hrun
  exact completes_of rfl hrun rfl (fun _ => rfl) rfl ⟨rfl, rfl, rfl, rfl, rfl⟩

/-- Settles O36: the run of each of the four sequences. -/
theorem jumpResults : Obligations.JumpResults := by
  intro s hb r b1 b2 pushes
  refine ⟨?_, ?_, ?_, completes_jsr hb, completes_rts hb⟩
  · simp only [List.forall_mem_cons, List.not_mem_nil, false_implies, implies_true, and_true]
    exact ⟨⟨rfl, rfl, rfl⟩, ⟨rfl, rfl, rfl⟩, ⟨rfl, rfl, rfl⟩, ⟨rfl, rfl, rfl⟩⟩
  · exact completes_of rfl (runSequence_jmp hb s.seq) rfl (fun _ => rfl) rfl ⟨rfl, rfl, rfl, rfl, rfl⟩
  · exact completes_of rfl (runSequence_jmpInd hb s.seq) rfl (fun _ => rfl) rfl ⟨rfl, rfl, rfl, rfl, rfl⟩

/-! ### What was pushed is pulled -/

theorem stackAddr_ne_sub_one (x : Byte) : stackAddr x ≠ stackAddr (x - 1) := by
  rw [Ne, stackAddr_inj]
  bv_omega

theorem stackAddr_ne_sub_two (x : Byte) : stackAddr x ≠ stackAddr (x - 1 - 1) := by
  rw [Ne, stackAddr_inj]
  bv_omega

/-- The return address is on the stack, wherever `S` stood (R30, R327). -/
theorem SeqState.peek_pushReturn_cat (st : SeqState) (ret : Addr) :
    cat ((st.pushReturn ret).peek (stackAddr st.s)) ((st.pushReturn ret).peek (stackAddr (st.s - 1))) = ret := by
  simp only [SeqState.pushReturn, SeqState.peek_poke, if_neg (stackAddr_ne_sub_one st.s), if_true, cat_hiByte_loByte]

/-- The two bytes above `S` after a `JSR` are the address of its last byte (R311). -/
theorem SeqState.called_peek_cat (st : SeqState) :
    cat (st.called.peek (stackAddr (st.s - 2 + 2))) (st.called.peek (stackAddr (st.s - 2 + 1))) = st.pc + 2 := by
  have hlow : st.s - 2 + 1 = st.s - 1 := by bv_omega
  rw [BitVec.sub_add_cancel, hlow]
  exact st.peek_pushReturn_cat (st.pc + 2)

/-- Settles O37: `RTS` reads the two bytes `JSR` pushed, and moves `S` back over them. -/
theorem callAndReturn : Obligations.CallAndReturn := by
  intro s t hb ht
  cases (exec_jsr hb).symm.trans ht
  obtain ⟨u, hu, hregs, hrest⟩ := completes_rts (s := s.setSeq s.seq.called) hb
  refine ⟨u, hu, hregs.trans ?_, hrest⟩
  have hpc : s.seq.pc + 2 + 1 = s.seq.pc + 3 := BitVec.add_assoc ..
  simp only [Regs.mk.injEq]
  exact ⟨rfl, rfl, rfl, BitVec.sub_add_cancel .., rfl, (congrArg (· + 1) s.seq.called_peek_cat).trans hpc⟩

/-! ### Interrupt entries and `RTI` -/

/-- What an entry through a vector leaves, the free tail still to come (R414, R416). -/
def SeqState.entered (st : SeqState) (ret : Addr) (status : Byte) (vector : Addr) : SeqState :=
  let st1 := st.pushFrame ret status
  { st with
    mem := st1.mem
    p := Machine.setFlag st.p .i true
    adl := st1.peek vector
    adh := st1.peek (vector + 1)
    s := st.s - 3
    pc := ret
    q := [.setPcAd] }

theorem exec_brk {s : State} (hb : FullBus s) :
    exec .brk s = .next (s.setSeq (s.seq.entered (s.seq.pc + 2) (pushedBreak s.seq.p) irqVector)) :=
  exec_next rfl (by rw [runSequence_brk hb, byte_sub_three]; simp [SeqState.entered, SeqState.pushFrame])

theorem takeInterrupt_eq {s : State} (hb : FullBus s) (v : Addr) :
    takeInterrupt v s = .next (s.setSeq (s.seq.entered s.seq.pc (pushedIrq s.seq.p) v)) := by
  rw [takeInterrupt, runInstr, runSequence_interrupt hb, byte_sub_three, State.ofSeq]
  simp [SeqState.entered, SeqState.pushFrame]

/-- The pushes reach no vector, so its content is what memory held before (R68, R416). -/
theorem entered_setSeq (s : State) (ret : Addr) (status : Byte) {v : Addr} (hlow : 512 ≤ v.toNat)
    (hhigh : 512 ≤ (v + 1).toNat) : Entered s (s.setSeq (s.seq.entered ret status v)) ret status v := by
  refine ⟨rfl, s.seq.peek_pushFrame ret status, rfl, rfl, ?_, rfl, rfl, rfl, rfl, rfl, rfl, rfl, rfl⟩
  rw [← s.seq.peek_pushFrame_high ret status v hlow, ← s.seq.peek_pushFrame_high ret status (v + 1) hhigh]
  rfl

/-- Settles O38: the entry through the IRQ vector, from the run of `BRK`'s sequence. -/
theorem brkResult : Obligations.BrkResult := fun s hb =>
  ⟨⟨rfl, rfl, rfl⟩, _, exec_brk hb, entered_setSeq s _ _ (by decide) (by decide)⟩

theorem completes_rti {s : State} (hb : FullBus s) :
    Completes .rti s
      { s.seq.regs with
        s := s.seq.s + 3
        p := pulledStatus s.seq.p (s.seq.peek (stackAddr (s.seq.s + 1)))
        pc := cat (s.seq.peek (stackAddr (s.seq.s + 3))) (s.seq.peek (stackAddr (s.seq.s + 2))) } [] := by
  have hrun := runSequence_rti hb s.seq
  rw [byte_add_three, byte_add_two] at hrun
  exact completes_of rfl hrun rfl (fun _ => rfl) rfl ⟨rfl, rfl, rfl, rfl, rfl⟩

/-- Settles O39: the run of `RTI`'s sequence, with `PULL(P)` written out. -/
theorem rtiResult : Obligations.RtiResult := fun _ hb => ⟨⟨rfl, rfl, rfl⟩, completes_rti hb⟩

/-- The status byte is pushed below the return address (R414). -/
theorem SeqState.entered_peek (st : SeqState) (ret : Addr) (status : Byte) (v b : Addr) :
    (st.entered ret status v).peek b = if b = stackAddr (st.s - 1 - 1) then status else (st.pushReturn ret).peek b :=
  SeqState.peek_poke ..

theorem SeqState.entered_peek_status (st : SeqState) (ret : Addr) (status : Byte) (v : Addr) :
    (st.entered ret status v).peek (stackAddr (st.s - 3 + 1)) = status := by
  have haddr : st.s - 3 + 1 = st.s - 1 - 1 := by bv_omega
  rw [haddr, SeqState.entered_peek, if_pos rfl]

theorem SeqState.entered_peek_cat (st : SeqState) (ret : Addr) (status : Byte) (v : Addr) :
    cat ((st.entered ret status v).peek (stackAddr (st.s - 3 + 3)))
      ((st.entered ret status v).peek (stackAddr (st.s - 3 + 2))) = ret := by
  have hlow : st.s - 3 + 2 = st.s - 1 := by bv_omega
  rw [BitVec.sub_add_cancel, hlow, SeqState.entered_peek, SeqState.entered_peek, if_neg (stackAddr_ne_sub_two _),
    if_neg (stackAddr_ne_sub_one _), SeqState.peek_pushReturn_cat]

/-- `RTI` after an entry takes every register back, where the status byte pushed gives `P` back (R417). -/
theorem rti_after_entry {s : State} (hb : FullBus s) (ret : Addr) {status : Byte} (v : Addr)
    (hp : pulledStatus (setFlag s.seq.p .i true) status = s.seq.p) :
    ∃ u, exec .rti (s.setSeq (s.seq.entered ret status v)) = .next u ∧ u.seq.regs = { s.seq.regs with pc := ret } ∧
      u.seq.q = [] ∧ ∀ b, u.seq.peek b = (s.seq.entered ret status v).peek b := by
  obtain ⟨u, hu, hregs, hpeek, hq, -⟩ := completes_rti (s := s.setSeq (s.seq.entered ret status v)) hb
  refine ⟨u, hu, hregs.trans ?_, hq, hpeek⟩
  simp only [Regs.mk.injEq]
  exact ⟨rfl, rfl, rfl, BitVec.sub_add_cancel .., (congrArg (pulledStatus _) (s.seq.entered_peek_status ..)).trans hp,
    s.seq.entered_peek_cat ..⟩

/-- A status byte that differs from `P` in `B` and `U` alone gives `P` back, whatever the entry did to `P.I` (R33). -/
theorem pulledStatus_setFlag_of_pushed {p status : Byte} {b : Bool}
    (h : ∀ f, f ≠ .b → f ≠ .u → getFlag status f = getFlag p f) : pulledStatus (setFlag p .i b) status = p := by
  apply status_ext
  intro f
  rw [getFlag_pulledStatus]
  split
  next hf => rw [getFlag_setFlag, if_neg (by rcases hf with rfl | rfl <;> decide)]
  next hf => exact h f (hf ∘ .inl) (hf ∘ .inr)

theorem pulledStatus_pushedIrq (p : Byte) (b : Bool) : pulledStatus (setFlag p .i b) (pushedIrq p) = p :=
  pulledStatus_setFlag_of_pushed fun f hfb hfu => by rw [getFlag_pushedIrq, if_neg hfb, if_neg hfu]

theorem pulledStatus_pushedBreak (p : Byte) (b : Bool) : pulledStatus (setFlag p .i b) (pushedBreak p) = p :=
  pulledStatus_setFlag_of_pushed fun f hfb hfu => by rw [getFlag_pushedBreak, if_neg (not_or.mpr ⟨hfb, hfu⟩)]

/-- Settles O13: either entry pushes the return address and a status byte that gives `P` back. -/
theorem resumeAfterInterrupt : Obligations.ResumeAfterInterrupt := by
  intro s t hb
  constructor
  · intro v _ ht
    cases (takeInterrupt_eq hb v).symm.trans ht
    exact rti_after_entry hb _ v (pulledStatus_pushedIrq ..)
  · intro ht
    cases (exec_brk hb).symm.trans ht
    exact rti_after_entry hb _ irqVector (pulledStatus_pushedBreak ..)

/-! ### The stack instructions -/

/-- `PULL(P)` as a list of flags (R33, R319). -/
theorem pulledStatus_eq_withFlags (p m : Byte) : pulledStatus p m = withFlags p
    [(.n, getFlag m .n), (.v, getFlag m .v), (.d, getFlag m .d), (.i, getFlag m .i), (.z, getFlag m .z),
      (.c, getFlag m .c)] := by
  apply status_ext
  intro f
  rw [getFlag_pulledStatus, getFlag_withFlags]
  cases f <;> rfl

theorem completes_push {s : State} (hb : FullBus s) {i : Instr} {v : PushVal} (hv : v = .a ∨ v = .statusBreak)
    (hrow : rowSequence i.row = some (seqPush v)) :
    Completes i s { s.seq.regs with s := s.seq.s - 1, pc := s.seq.pc + 1 } [(stackAddr s.seq.s, v.value s.seq)] :=
  completes_of hrow (runSequence_push hb v s.seq hv) rfl (SeqState.peek_poke _ _ · _) rfl ⟨rfl, rfl, rfl, rfl, rfl⟩

theorem completes_pull {s : State} (hb : FullBus s) {i : Instr} {l : LoadFn} {r : Regs}
    (hrow : rowSequence i.row = some (seqPull l))
    (hr : (l.apply (s.seq.peek (stackAddr (s.seq.s + 1))) { s.seq with
      dl := s.seq.peek (stackAddr (s.seq.s + 1)), pc := s.seq.pc + 1, s := s.seq.s + 1, q := [] }).regs = r) :
    Completes i s r [] :=
  completes_of hrow (runSequence_pull hb l s.seq) hr (SeqState.peek_congr (LoadFn.apply_mem ..)) (LoadFn.apply_q ..)
    ⟨LoadFn.apply_irqLine .., LoadFn.apply_nmiLine .., LoadFn.apply_nmiPrev .., LoadFn.apply_nmiPending ..,
      LoadFn.apply_freeCount ..⟩

/-- Settles O40: the two pushes by their value, the two pulls by what they load. -/
theorem stackResults : Obligations.StackResults := by
  intro s hb r m
  refine ⟨?_, completes_push hb (.inl rfl) rfl, completes_push hb (.inr rfl) rfl,
    completes_pull (l := .a) hb rfl (SeqState.setNZ_regs ..),
    completes_pull (l := .p) hb rfl (SeqState.setP_regs (pulledStatus_eq_withFlags ..) _)⟩
  simp only [List.forall_mem_cons, List.not_mem_nil, false_implies, implies_true, and_true]
  exact ⟨⟨rfl, rfl, rfl⟩, ⟨rfl, rfl, rfl⟩, ⟨rfl, rfl, rfl⟩, ⟨rfl, rfl, rfl⟩⟩

/-! ### Flags and no-ops -/

/-- Settles O41: each instruction's effect is the one flag write. -/
theorem flagResults : Obligations.FlagResults := by
  intro s hb
  simp only [List.forall_mem_cons, List.not_mem_nil, false_implies, implies_true, and_true]
  refine ⟨registers_of .clc ?_ hb rfl, registers_of .sec ?_ hb rfl, registers_of .cli ?_ hb rfl,
    registers_of .sei ?_ hb rfl, registers_of .clv ?_ hb rfl, registers_of .cld ?_ hb rfl, registers_of .sed ?_ hb rfl⟩
  all_goals decide

/-- Settles O42: the effect of a no-op and of an unknown opcode is the identity. -/
theorem noOpResults : Obligations.NoOpResults := by
  intro s hb
  refine ⟨registers_of .nop ?_ hb rfl, readsTo_of .nop ?_ hb (fun _ => rfl) fun _ => rfl,
    registers_of .unk ?_ hb rfl, ?_⟩
  all_goals decide

end Sys2Proof.Machine

/-! PROOFS. The undocumented composites (45_undocumented.md R351 to R363). -/

namespace Sys2Proof.Machine

/-! ### Lists of flag writes that come to the same -/

/-- What a list of flag writes makes of flag `g`, from its value `b` before. -/
def flagAfter (l : List (Flag × Bool)) (g : Flag) (b : Bool) : Bool :=
  l.foldl (fun b c => if g = c.1 then c.2 else b) b

/-- Only the last write of each flag counts, in whatever order the flags are listed. -/
theorem withFlags_congr (p : Byte) {l l' : List (Flag × Bool)} (h : ∀ g b, flagAfter l g b = flagAfter l' g b) :
    withFlags p l = withFlags p l' :=
  status_ext fun g => (getFlag_withFlags p l g).trans ((h g _).trans (getFlag_withFlags p l' g).symm)

theorem withFlags_setFlag (p : Byte) (f : Flag) (b : Bool) (l : List (Flag × Bool)) :
    withFlags (setFlag p f b) l = withFlags p ((f, b) :: l) := rfl

theorem setFlag_withFlags (p : Byte) (f : Flag) (b : Bool) (l : List (Flag × Bool)) :
    setFlag (withFlags p l) f b = withFlags p (l ++ [(f, b)]) := by
  rw [withFlags, withFlags, List.foldl_append]
  rfl

/-! ### `SLO`, `RLA`, `SRE` -/

/-- Settles O43: `C` from the shift, then its result combined with `A`, then `N` and `Z` from `A`: what a shift of `A`
leaves, with the combined byte as its result. -/
theorem shiftLogicResults : Obligations.ShiftLogicResults := by
  intro s hb
  refine ⟨modifies_of .slo ?_ hb (fun _ => rfl) fun m =>
      s.seq.shiftA_regs { aslF m with w := s.seq.a ||| (aslF m).w },
    modifies_of .rla ?_ hb (fun _ => rfl) fun m =>
      s.seq.shiftA_regs { rolF m (s.seq.flag .c) with w := s.seq.a &&& (rolF m (s.seq.flag .c)).w },
    modifies_of .sre ?_ hb (fun _ => rfl) fun m =>
      s.seq.shiftA_regs { lsrF m with w := s.seq.a ^^^ (lsrF m).w }⟩
  all_goals decide

/-! ### `RRA`, `DCP`, `ISC` -/

/-- A binary addition with the carry `c` that an earlier write put into `P`; that write is lost under the sum's own
carry (R260, R354). -/
theorem adcOut_setCarry_of_binary {mode : DecimalMode} {p : Byte} (h : mode = .binaryOnly ∨ getFlag p .d = false)
    (a m : Byte) (c : Bool) : adcOut mode (setFlag p .c c) a m = addBinary p a m c := by
  have hd : mode = .binaryOnly ∨ getFlag (setFlag p .c c) .d = false := by rwa [getFlag_setFlag]
  rw [adcOut_of_binary hd, getFlag_setFlag_same, addBinary_eq, addBinary_eq, withFlags_setFlag]
  refine congrArg (AddOut.mk _) (withFlags_congr p fun g b => ?_)
  cases g <;> rfl

/-- A decimal addition with the carry `c` that an earlier write put into `P` (R261, R354). -/
theorem adcOut_setCarry_of_decimal {mode : DecimalMode} {p : Byte} (h : mode = .nmos) (hd : getFlag p .d = true)
    (a m : Byte) (c : Bool) : adcOut mode (setFlag p .c c) a m = addDecimal (withFlags p [(.c, c)]) a m c := by
  rw [adcOut_of_decimal h (by rwa [getFlag_setFlag]), getFlag_setFlag_same]
  rfl

/-- Settles O44: `DCP` is `Compare` with the decremented byte; `RRA` and `ISC` write `A` and `P` from the addition and
the subtraction their mode selects, `RRA` with the carry of its rotate. -/
theorem arithmeticCompositeResults : Obligations.ArithmeticCompositeResults := by
  intro s hb
  refine ⟨modifies_of .dcp ?_ hb (fun _ => rfl) fun m =>
      SeqState.setP_regs (compareP_eq_withFlags _ s.seq.a (m - 1)) s.seq,
    fun hmode => ⟨modifies_of .rra ?_ hb (fun _ => rfl) fun m =>
        SeqState.setAdd_regs ((adcOut_setCarry_of_binary hmode ..).trans (addBinary_eq ..)) (s.seq.setFlag .c _),
      modifies_of .isc ?_ hb (fun _ => rfl) fun m =>
        SeqState.setAdd_regs ((sbcOut_of_binary hmode ..).trans (subBinary_eq ..)) s.seq⟩,
    fun hmode hd => ⟨modifies_of .rra ?_ hb (fun _ => rfl) fun m =>
        SeqState.setAdd_regs (adcOut_setCarry_of_decimal hmode hd ..) (s.seq.setFlag .c _),
      modifies_of .isc ?_ hb (fun _ => rfl) fun m =>
        SeqState.setAdd_regs (sbcOut_of_decimal hmode hd ..) s.seq⟩⟩
  all_goals decide

/-! ### `SAX`, `LAX`, `LAS` -/

/-- Settles O45: `SAX` stores its value; the loads put the byte into their registers, then `N` and `Z` from it. -/
theorem combinedLoadStoreResults : Obligations.CombinedLoadStoreResults := by
  intro s hb
  refine ⟨storesTo_of .sax ?_ hb,
    readsTo_of .lax ?_ hb (fun _ => rfl) fun m => SeqState.setNZ_regs ((s.seq.setA m).setX m) m,
    readsTo_of .las ?_ hb (fun _ => rfl) fun m =>
      SeqState.setNZ_regs (((s.seq.setA (m &&& s.seq.s)).setX (m &&& s.seq.s)).setS (m &&& s.seq.s)) (m &&& s.seq.s)⟩
  all_goals decide

/-! ### `ANC`, `ALR`, `AXS` -/

/-- `N` and `Z` of a byte, then `C` (R359). -/
theorem setCarry_setNZ_eq_withFlags (p v : Byte) (c : Bool) :
    setFlag (setNZ p v) .c c = withFlags p [(.n, v.msb), (.z, v == 0), (.c, c)] :=
  (congrArg (setFlag · .c c) (setNZ_eq_withFlags p v)).trans (setFlag_withFlags ..)

/-- A byte shifted right has bit 7 clear, so `setNZ` clears `N` (R279, R360). -/
theorem setNZ_shiftRight_setCarry_eq_withFlags (p t : Byte) (c : Bool) :
    setNZ (setFlag p .c c) (t >>> 1) = withFlags p [(.n, false), (.z, t >>> 1 == 0), (.c, c)] := by
  have hn : (t >>> 1).msb = false := by simp [BitVec.msb_ushiftRight]
  rw [setNZ_eq_withFlags, hn, withFlags_setFlag]
  refine withFlags_congr p fun g b => ?_
  cases g <;> rfl

/-- Settles O46: `ANC` writes `C` after `N` and `Z`, `ALR` before them; the flags of `AXS` are those of `Compare`. -/
theorem immediateCompositeResults : Obligations.ImmediateCompositeResults := by
  intro s hb
  refine ⟨readsTo_of .anc ?_ hb (fun _ => rfl) fun m =>
      SeqState.setP_regs (setCarry_setNZ_eq_withFlags ..) (s.seq.setA (s.seq.a &&& m)),
    readsTo_of .alr ?_ hb (fun _ => rfl) fun m =>
      SeqState.setP_regs (setNZ_shiftRight_setCarry_eq_withFlags ..) (s.seq.setA ((s.seq.a &&& m) >>> 1)),
    readsTo_of .axs ?_ hb (fun _ => rfl) fun m =>
      SeqState.setP_regs (compareP_eq_withFlags ..) (s.seq.setX ((s.seq.a &&& s.seq.x) - m))⟩
  all_goals decide

/-! ### `ARR` -/

theorem ReadFn.apply_arr_of_binary {mode : DecimalMode} {st : SeqState}
    (h : mode = .binaryOnly ∨ getFlag st.p .d = false) (m : Byte) : ReadFn.arr.apply mode m st = arrBinary m st :=
  if_neg (Bool.eq_false_iff.mp (decimalOn_of_binary h))

theorem ReadFn.apply_arr_of_decimal {mode : DecimalMode} {st : SeqState} (h : mode = .nmos)
    (hd : getFlag st.p .d = true) (m : Byte) : ReadFn.arr.apply mode m st = arrDecimal st :=
  if_pos (decimalOn_of_decimal h hd)

/-- `N` and `Z` of a byte, then `C`, then `V` (R361). -/
theorem setOverflow_setCarry_setNZ_eq_withFlags (p r : Byte) (c v : Bool) :
    setFlag (setFlag (setNZ p r) .c c) .v v = withFlags p [(.n, r.msb), (.v, v), (.z, r == 0), (.c, c)] := by
  rw [setCarry_setNZ_eq_withFlags, setFlag_withFlags]
  refine withFlags_congr p fun g b => ?_
  cases g <;> rfl

/-- Binary `ARR` among the registers: `A` and the four flags of the result (R361). -/
theorem arrBinary_regs (m : Byte) (st : SeqState) :
    let v := ((st.a &&& m) >>> 1) ||| (if getFlag st.p .c then 0x80 else 0)
    (arrBinary m st).regs =
      { st.regs with
        a := v
        p := withFlags st.p [(.n, v.msb), (.v, v.getLsbD 6 ^^ v.getLsbD 5), (.z, v == 0), (.c, v.getLsbD 6)] } := by
  intro v
  exact SeqState.setP_regs (setOverflow_setCarry_setNZ_eq_withFlags st.p v _ _) (st.setA v)

/-- Decimal `ARR` among the registers: free values in `A` and the four flags (R361, U7). -/
theorem arrDecimal_regs (st : SeqState) : ∃ (a : Byte) (n v z c : Bool), (arrDecimal st).regs =
    { st.regs with a := a, p := withFlags st.p [(.n, n), (.v, v), (.z, z), (.c, c)] } :=
  ⟨_, _, _, _, _, rfl⟩

/-- Of the registers only `PC` has moved when a sequence has reached its operand. -/
theorem Arrived.regs {n : Addr} {st st' : SeqState} (h : Arrived n st st') :
    st'.regs = { st.regs with pc := st.pc + n } := by
  simp only [SeqState.regs, h.a, h.x, h.y, h.s, h.p, h.pc]

/-- In decimal mode `ARR` completes with its effect run at the instruction's end. -/
theorem exec_arr_of_decimal {s : State} (hb : FullBus s) (hmode : s.params.decimalMode = .nmos)
    (hd : getFlag s.seq.p .d = true) :
    ∃ st, Arrived 2 s.seq st ∧ exec .arrImm s = .next (s.setSeq (arrDecimal st)) := by
  obtain ⟨st, hst, hrun⟩ := runSequence_read hb (f := .imm) (e := .arr) rfl s.seq rfl
  rw [ReadFn.apply_arr_of_decimal hmode (hst.p ▸ hd)] at hrun
  exact ⟨st, hst, exec_next rfl hrun⟩

/-- Settles O47: under binary flags as any read form; in decimal mode the free values drawn are the witnesses. -/
theorem arrResults : Obligations.ArrResults := by
  intro s hb
  constructor
  · intro hmode
    refine readsTo_of .arr (by decide) hb (fun m => ?_) fun m => ?_
    · rw [ReadFn.apply_arr_of_binary hmode]
      rfl
    · rw [ReadFn.apply_arr_of_binary hmode]
      exact arrBinary_regs m s.seq
  · intro hmode hd
    obtain ⟨st, hst, hexec⟩ := exec_arr_of_decimal hb hmode hd
    obtain ⟨a, n, v, z, c, hregs⟩ := arrDecimal_regs st
    refine ⟨_, a, n, v, z, c, hexec, hregs.trans ?_, SeqState.peek_congr hst.mem, hst.q,
      congrArg (· + 2) hst.freeCount, rfl, rfl, rfl, hst.irqLine, hst.nmiLine, hst.nmiPrev, hst.nmiPending, rfl⟩
    rw [hst.regs, hst.p]
    rfl

end Sys2Proof.Machine

/-! PROOFS. The reset sequence and the entries of NMI and IRQ (60_exceptions.md R412 to R416; 70_reset_and_hazards.md
R451). -/

namespace Sys2Proof.Machine

/-! ### The reset sequence -/

/-- What the reset sequence leaves, the free tail still to come (R415): three reads where an entry pushes, so no byte is
stored. -/
def SeqState.resetDone (st : SeqState) : SeqState :=
  { st with
    p := Machine.setFlag st.p .i true
    adl := st.peek resetVector
    adh := st.peek (resetVector + 1)
    s := st.s - 3
    q := [.setPcAd] }

/-- Just powered on, with `nmiLine` sampled, there is nothing to do before the cycle (R411, R415). -/
theorem SeqState.ready_of_reset {st : SeqState} (hq : st.q = resetSequence) (hseen : st.nmiPrev = st.nmiLine) :
    st.ready = st := by
  rw [SeqState.ready_cons hq rfl, SeqState.sampleNmi_of_seen hseen]

theorem step_reset {s : State} (hb : FullBus s) (hh : s.host = []) (hq : s.seq.q = resetSequence)
    (hseen : s.seq.nmiPrev = s.seq.nmiLine) : step s = .next (s.setSeq s.seq.resetDone) := by
  have hready : s.seq.ready = s.seq := SeqState.ready_of_reset hq hseen
  have hne : s.seq.ready.q ≠ [] := by rw [hready, hq]; exact nofun
  have hrun := runSequence_reset hb s.seq
  rw [byte_sub_three] at hrun
  rw [step_inFlight hh hne, hready, finishInFlight_eq_runInstr (s := s.setSeq s.seq) hq, runInstr, State.setSeq_seq,
    State.setSeq_params, hrun]
  rfl

/-- The seven reads of the reset sequence: two at `PC`, three down the stack page, the vector (R415). -/
theorem drives_reset {mode : DecimalMode} {st : SeqState} (hq : st.q = resetSequence) :
    Drives mode st 7 [st.readOf st.pc, st.readOf st.pc, st.readOf (stackAddr st.s), st.readOf (stackAddr (st.s - 1)),
      st.readOf (stackAddr (st.s - 2)), st.readOf resetVector, st.readOf (resetVector + 1)] := by
  rw [← byte_sub_two]
  simp [Drives, drive, hq, resetSequence, MicroOp.isFree, opStep, MicroOp.request, MicroOp.effect, applyImp,
    SeqState.setFlag, SeqState.setP, BusRequest.access, SeqState.readOf, SeqState.peek, -BitVec.toNat_add]

/-- Settles O5: the run of the reset sequence, and the accesses it makes on the way. -/
theorem resetSequence_runs : Obligations.ResetSequence := by
  intro s hb hh hq hseen
  obtain ⟨st, hdrive, -⟩ := drives_reset (mode := s.params.decimalMode) hq
  obtain ⟨-, htrace, -⟩ := drive_eq hb 7 hdrive hseen
  have hframe : Undisturbed s (s.setSeq s.seq.resetDone) := ⟨rfl, rfl, rfl, rfl, rfl, rfl, rfl, rfl⟩
  exact ⟨⟨_, step_reset hb hh hq hseen, rfl, rfl, rfl, rfl, rfl, hframe⟩, htrace⟩

/-! ### The entries of NMI and IRQ -/

/-- Taking an interrupt is an entry through its vector, the status byte pushed with bit 5 set and bit 4 clear (R414,
R416). -/
theorem takeInterrupt_enters {s : State} (hb : FullBus s) {v : Addr} (hlow : 512 ≤ v.toNat)
    (hhigh : 512 ≤ (v + 1).toNat) :
    ∃ t, takeInterrupt v s = .next t ∧ Entered s t s.seq.pc (pushedIrq s.seq.p) v :=
  ⟨_, takeInterrupt_eq hb v, entered_setSeq s _ _ hlow hhigh⟩

/-- Settles O11: at a boundary a pending NMI is acknowledged and taken, else an unmasked IRQ is taken as it is. -/
theorem interruptEntry : Obligations.InterruptEntry := by
  intro s hb hh hq
  rw [← s.seq.ready_p]
  constructor
  · intro hnmi
    rw [step_nmi hh hq hnmi]
    exact takeInterrupt_enters (s := s.setSeq s.seq.ready.acknowledge) (v := nmiVector) hb (by decide) (by decide)
  · intro hnmi hirq hmask
    rw [s.seq.ready_p] at hmask
    rw [step_irq hh hq hnmi hirq hmask]
    exact takeInterrupt_enters (s := s.setSeq s.seq.ready) (v := irqVector) hb (by decide) (by decide)

end Sys2Proof.Machine
